-- ==== Sys2Proof/Word.lean ====
section
/-! DEFINITION. The word types of the CHIP-8 CORE: a byte, a 16-bit word, a register index (00_scope.md R5). -/

namespace Sys2Proof

/-- A general register, a timer, a byte of memory: 8 bits (00_scope.md R5, `XLEN`). -/
abbrev Byte := BitVec 8

/-- An instruction word, the program counter, the index register, a call-stack entry: 16 bits (00_scope.md R5). -/
abbrev Word := BitVec 16

/-- The index of a general register: V0 to VF (10_state.md R10). -/
abbrev Reg := Fin 16

end Sys2Proof
end

