-- ==== Sys2Proof/Syntax.lean ====
section
/-! DEFINITION. The instruction set: one constructor per row of spec/opcode_table.json (30_encoding.md R69). -/

namespace Sys2Proof

/-- An instruction. `x` and `y` name general registers, `nn` is an 8-bit immediate, `nnn` a 12-bit address and `n` a
row count from 0 to 15 (30_encoding.md R62, R64). -/
inductive Instr where
  /-- 00E0 `CLS` (43_display.md R130). -/
  | cls
  /-- 00EE `RET` (40_flow_control.md R80). -/
  | ret
  /-- 1nnn `JP nnn` (R81). -/
  | jp (nnn : BitVec 12)
  /-- 2nnn `CALL nnn` (R82). -/
  | call (nnn : BitVec 12)
  /-- 3xnn `SE Vx, nn` (R83). -/
  | seImm (x : Reg) (nn : Byte)
  /-- 4xnn `SNE Vx, nn` (R84). -/
  | sneImm (x : Reg) (nn : Byte)
  /-- 5xy0 `SE Vx, Vy` (R85). -/
  | seReg (x y : Reg)
  /-- 9xy0 `SNE Vx, Vy` (R86). -/
  | sneReg (x y : Reg)
  /-- 6xnn `LD Vx, nn` (41_register_alu.md R101). -/
  | ldImm (x : Reg) (nn : Byte)
  /-- 7xnn `ADD Vx, nn` (R102). -/
  | addImm (x : Reg) (nn : Byte)
  /-- 8xy0 `LD Vx, Vy` (R103). -/
  | ldReg (x y : Reg)
  /-- 8xy1 `OR Vx, Vy` (R104). -/
  | orReg (x y : Reg)
  /-- 8xy2 `AND Vx, Vy` (R105). -/
  | andReg (x y : Reg)
  /-- 8xy3 `XOR Vx, Vy` (R106). -/
  | xorReg (x y : Reg)
  /-- 8xy4 `ADD Vx, Vy` (R107). -/
  | addReg (x y : Reg)
  /-- 8xy5 `SUB Vx, Vy` (R108). -/
  | subReg (x y : Reg)
  /-- 8xy6 `SHR Vx` (R109); `y` is in the word and has no effect (30_encoding.md R64). -/
  | shr (x y : Reg)
  /-- 8xy7 `SUBN Vx, Vy` (R110). -/
  | subnReg (x y : Reg)
  /-- 8xyE `SHL Vx` (R111); `y` is in the word and has no effect (30_encoding.md R64). -/
  | shl (x y : Reg)
  /-- Annn `LD I, nnn` (42_index_memory.md R120). -/
  | ldI (nnn : BitVec 12)
  /-- Bnnn `JP V0, nnn` (40_flow_control.md R87). -/
  | jpV0 (nnn : BitVec 12)
  /-- Cxnn `RND Vx, nn` (41_register_alu.md R112). -/
  | rnd (x : Reg) (nn : Byte)
  /-- Dxyn `DRW Vx, Vy, n` (43_display.md R132). -/
  | drw (x y n : Fin 16)
  /-- Ex9E `SKP Vx` (44_keypad_timers.md R140). -/
  | skp (x : Reg)
  /-- ExA1 `SKNP Vx` (R141). -/
  | sknp (x : Reg)
  /-- Fx07 `LD Vx, DT` (R143). -/
  | ldVxDt (x : Reg)
  /-- Fx0A `LD Vx, K` (R142). -/
  | ldVxK (x : Reg)
  /-- Fx15 `LD DT, Vx` (R144). -/
  | ldDtVx (x : Reg)
  /-- Fx18 `LD ST, Vx` (R145). -/
  | ldStVx (x : Reg)
  /-- Fx1E `ADD I, Vx` (42_index_memory.md R121). -/
  | addI (x : Reg)
  /-- Fx29 `LD F, Vx` (R122). -/
  | ldF (x : Reg)
  /-- Fx33 `LD B, Vx` (R123). -/
  | ldB (x : Reg)
  /-- Fx55 `LD [I], Vx` (R124). -/
  | storeRegs (x : Reg)
  /-- Fx65 `LD Vx, [I]` (R125). -/
  | loadRegs (x : Reg)
  /-- 0nnn `SYS nnn`, a no-operation (40_flow_control.md R88); 0x0E0 and 0x0EE are the words of `CLS` and `RET`. -/
  | sys (nnn : BitVec 12)
deriving DecidableEq, Repr

end Sys2Proof
end

