-- ==== Sys2Proof/Decode.lean ====
section
/-! DEFINITION. Decoding, total on any bytes (30_encoding.md R60 to R69), and the encoder written from the same
encoding column. -/

namespace Sys2Proof

/-! ### Fields (30_encoding.md R62) -/

/-- `op`, bits 15:12. -/
def fieldOp (w : Word) : BitVec 4 := w.extractLsb' 12 4

/-- `x`, bits 11:8. -/
def fieldX (w : Word) : Fin 16 := ⟨(w.extractLsb' 8 4).toNat, (w.extractLsb' 8 4).isLt⟩

/-- `y`, bits 7:4. -/
def fieldY (w : Word) : Fin 16 := ⟨(w.extractLsb' 4 4).toNat, (w.extractLsb' 4 4).isLt⟩

/-- `n`, bits 3:0. -/
def fieldN (w : Word) : Fin 16 := ⟨(w.extractLsb' 0 4).toNat, (w.extractLsb' 0 4).isLt⟩

/-- `nn`, bits 7:0. -/
def fieldNN (w : Word) : Byte := w.extractLsb' 0 8

/-- `nnn`, bits 11:0. -/
def fieldNNN (w : Word) : BitVec 12 := w.extractLsb' 0 12

/-! ### Decoding one word (30_encoding.md R65) -/

/-- Family 0: the whole word selects `CLS` and `RET`; the rest is `SYS` (R65, R68). -/
def decodeFamily0 (w : Word) : Instr :=
  if w = 0x00E0 then .cls else if w = 0x00EE then .ret else .sys (fieldNNN w)

/-- Family 8: the low nibble selects the operation (R65); every `y` is accepted, in `SHR` and `SHL` too (R64, R70). -/
def decodeFamily8 (w : Word) : Option Instr :=
  match (fieldN w).val with
  | 0x0 => some (.ldReg (fieldX w) (fieldY w))
  | 0x1 => some (.orReg (fieldX w) (fieldY w))
  | 0x2 => some (.andReg (fieldX w) (fieldY w))
  | 0x3 => some (.xorReg (fieldX w) (fieldY w))
  | 0x4 => some (.addReg (fieldX w) (fieldY w))
  | 0x5 => some (.subReg (fieldX w) (fieldY w))
  | 0x6 => some (.shr (fieldX w) (fieldY w))
  | 0x7 => some (.subnReg (fieldX w) (fieldY w))
  | 0xE => some (.shl (fieldX w) (fieldY w))
  | _ => none

/-- Family E: the low byte selects the operation (R65). -/
def decodeFamilyE (w : Word) : Option Instr :=
  match (fieldNN w).toNat with
  | 0x9E => some (.skp (fieldX w))
  | 0xA1 => some (.sknp (fieldX w))
  | _ => none

/-- Family F: the low byte selects the operation (R65). -/
def decodeFamilyF (w : Word) : Option Instr :=
  match (fieldNN w).toNat with
  | 0x07 => some (.ldVxDt (fieldX w))
  | 0x0A => some (.ldVxK (fieldX w))
  | 0x15 => some (.ldDtVx (fieldX w))
  | 0x18 => some (.ldStVx (fieldX w))
  | 0x1E => some (.addI (fieldX w))
  | 0x29 => some (.ldF (fieldX w))
  | 0x33 => some (.ldB (fieldX w))
  | 0x55 => some (.storeRegs (fieldX w))
  | 0x65 => some (.loadRegs (fieldX w))
  | _ => none

/-- The decoding procedure of 30_encoding.md R65. `none` is the answer for the words that match no row at all, which
the machine executes as no-operations (R67; log entry 7). -/
def decodeWord (w : Word) : Option Instr :=
  match (fieldOp w).toNat with
  | 0x0 => some (decodeFamily0 w)
  | 0x1 => some (.jp (fieldNNN w))
  | 0x2 => some (.call (fieldNNN w))
  | 0x3 => some (.seImm (fieldX w) (fieldNN w))
  | 0x4 => some (.sneImm (fieldX w) (fieldNN w))
  | 0x5 => if fieldN w = 0 then some (.seReg (fieldX w) (fieldY w)) else none
  | 0x6 => some (.ldImm (fieldX w) (fieldNN w))
  | 0x7 => some (.addImm (fieldX w) (fieldNN w))
  | 0x8 => decodeFamily8 w
  | 0x9 => if fieldN w = 0 then some (.sneReg (fieldX w) (fieldY w)) else none
  | 0xA => some (.ldI (fieldNNN w))
  | 0xB => some (.jpV0 (fieldNNN w))
  | 0xC => some (.rnd (fieldX w) (fieldNN w))
  | 0xD => some (.drw (fieldX w) (fieldY w) (fieldN w))
  | 0xE => decodeFamilyE w
  | 0xF => decodeFamilyF w
  | _ => none

/-! ### Decoding bytes (20_memory.md R45, 30_encoding.md R61) -/

/-- Why a list of bytes is no instruction. -/
inductive DecodeError where
  /-- Fewer than the two bytes every instruction has (R61). The machine's fetch never meets this. -/
  | truncated
  /-- A word that matches no row of the table; the machine runs it as a no-operation (R67). -/
  | unrecognized (w : Word)
deriving DecidableEq, Repr

/-- The instruction word: the byte at the lower address is bits 15:8 (20_memory.md R45; log entry 16). -/
def wordOfBytes (hi lo : Byte) : Word := hi ++ lo

/-- One instruction from the front of a list of bytes, and the bytes after it. -/
def decode : List Byte → Except DecodeError (Instr × List Byte)
  | hi :: lo :: rest =>
    match decodeWord (wordOfBytes hi lo) with
    | some i => .ok (i, rest)
    | none => .error (.unrecognized (wordOfBytes hi lo))
  | _ => .error .truncated

/-- The two bytes of a word in the order memory holds them (20_memory.md R45). -/
def bytesOfWord (w : Word) : List Byte := [w.extractLsb' 8 8, w.extractLsb' 0 8]

/-- The word an opcode-table row of `nbits` bits with the bits `w` stands for: the bits above `nbits` are 0. -/
def tableWord (nbits w : Nat) : Word := BitVec.ofNat 16 (w % 2 ^ nbits)

/-- What the decoder reads from the bytes of an opcode-table word. -/
def decodeTableWord (nbits w : Nat) : Option Instr :=
  match decode (bytesOfWord (tableWord nbits w)) with
  | .ok (i, _) => some i
  | .error _ => none

/-! ### Encoding (formats of 30_encoding.md R63) -/

/-- Format A: `op`, then the 12-bit address. -/
def wordA (op : BitVec 4) (nnn : BitVec 12) : Word := op ++ nnn

/-- Format I: `op`, `x`, then the 8-bit immediate. -/
def wordI (op : BitVec 4) (x : Fin 16) (nn : Byte) : Word := op ++ (BitVec.ofNat 4 x ++ nn)

/-- Format R, and format D with `n` in the place of the selector: `op`, `x`, `y`, low nibble. -/
def wordR (op : BitVec 4) (x y : Fin 16) (n : BitVec 4) : Word :=
  op ++ (BitVec.ofNat 4 x ++ (BitVec.ofNat 4 y ++ n))

/-- The word of an instruction (the encoding column of 30_encoding.md R69). -/
def encode : Instr → Word
  | .cls => 0x00E0
  | .ret => 0x00EE
  | .jp nnn => wordA 0x1 nnn
  | .call nnn => wordA 0x2 nnn
  | .seImm x nn => wordI 0x3 x nn
  | .sneImm x nn => wordI 0x4 x nn
  | .seReg x y => wordR 0x5 x y 0x0
  | .sneReg x y => wordR 0x9 x y 0x0
  | .ldImm x nn => wordI 0x6 x nn
  | .addImm x nn => wordI 0x7 x nn
  | .ldReg x y => wordR 0x8 x y 0x0
  | .orReg x y => wordR 0x8 x y 0x1
  | .andReg x y => wordR 0x8 x y 0x2
  | .xorReg x y => wordR 0x8 x y 0x3
  | .addReg x y => wordR 0x8 x y 0x4
  | .subReg x y => wordR 0x8 x y 0x5
  | .shr x y => wordR 0x8 x y 0x6
  | .subnReg x y => wordR 0x8 x y 0x7
  | .shl x y => wordR 0x8 x y 0xE
  | .ldI nnn => wordA 0xA nnn
  | .jpV0 nnn => wordA 0xB nnn
  | .rnd x nn => wordI 0xC x nn
  | .drw x y n => wordR 0xD x y (BitVec.ofNat 4 n)
  | .skp x => wordI 0xE x 0x9E
  | .sknp x => wordI 0xE x 0xA1
  | .ldVxDt x => wordI 0xF x 0x07
  | .ldVxK x => wordI 0xF x 0x0A
  | .ldDtVx x => wordI 0xF x 0x15
  | .ldStVx x => wordI 0xF x 0x18
  | .addI x => wordI 0xF x 0x1E
  | .ldF x => wordI 0xF x 0x29
  | .ldB x => wordI 0xF x 0x33
  | .storeRegs x => wordI 0xF x 0x55
  | .loadRegs x => wordI 0xF x 0x65
  | .sys nnn => wordA 0x0 nnn

/-- The bytes of an instruction, as memory holds them. -/
def encodeBytes (i : Instr) : List Byte := bytesOfWord (encode i)

/-! ### The opcode table (30_encoding.md R69) -/

/-- A row of the opcode table without its mnemonic: a word `w` is the row's when `w &&& mask = bits`. -/
structure OpcodeRow where
  mask : Word
  bits : Word
deriving DecidableEq, Repr

/-- Whether a word is the row's. -/
def OpcodeRow.covers (r : OpcodeRow) (w : Word) : Bool := w &&& r.mask == r.bits

/-- The `mask` and `match` columns of 30_encoding.md R69 for an instruction's row. -/
def Instr.row : Instr → OpcodeRow
  | .cls => ⟨0xFFFF, 0x00E0⟩
  | .ret => ⟨0xFFFF, 0x00EE⟩
  | .jp _ => ⟨0xF000, 0x1000⟩
  | .call _ => ⟨0xF000, 0x2000⟩
  | .seImm _ _ => ⟨0xF000, 0x3000⟩
  | .sneImm _ _ => ⟨0xF000, 0x4000⟩
  | .seReg _ _ => ⟨0xF00F, 0x5000⟩
  | .sneReg _ _ => ⟨0xF00F, 0x9000⟩
  | .ldImm _ _ => ⟨0xF000, 0x6000⟩
  | .addImm _ _ => ⟨0xF000, 0x7000⟩
  | .ldReg _ _ => ⟨0xF00F, 0x8000⟩
  | .orReg _ _ => ⟨0xF00F, 0x8001⟩
  | .andReg _ _ => ⟨0xF00F, 0x8002⟩
  | .xorReg _ _ => ⟨0xF00F, 0x8003⟩
  | .addReg _ _ => ⟨0xF00F, 0x8004⟩
  | .subReg _ _ => ⟨0xF00F, 0x8005⟩
  | .shr _ _ => ⟨0xF00F, 0x8006⟩
  | .subnReg _ _ => ⟨0xF00F, 0x8007⟩
  | .shl _ _ => ⟨0xF00F, 0x800E⟩
  | .ldI _ => ⟨0xF000, 0xA000⟩
  | .jpV0 _ => ⟨0xF000, 0xB000⟩
  | .rnd _ _ => ⟨0xF000, 0xC000⟩
  | .drw _ _ _ => ⟨0xF000, 0xD000⟩
  | .skp _ => ⟨0xF0FF, 0xE09E⟩
  | .sknp _ => ⟨0xF0FF, 0xE0A1⟩
  | .ldVxDt _ => ⟨0xF0FF, 0xF007⟩
  | .ldVxK _ => ⟨0xF0FF, 0xF00A⟩
  | .ldDtVx _ => ⟨0xF0FF, 0xF015⟩
  | .ldStVx _ => ⟨0xF0FF, 0xF018⟩
  | .addI _ => ⟨0xF0FF, 0xF01E⟩
  | .ldF _ => ⟨0xF0FF, 0xF029⟩
  | .ldB _ => ⟨0xF0FF, 0xF033⟩
  | .storeRegs _ => ⟨0xF0FF, 0xF055⟩
  | .loadRegs _ => ⟨0xF0FF, 0xF065⟩
  | .sys _ => ⟨0xF000, 0x0000⟩

/-- The rows of 30_encoding.md R69 tried before `SYS`, in the table's order. -/
def opcodeRows : List OpcodeRow :=
  [Instr.cls.row, Instr.ret.row, (Instr.jp 0).row, (Instr.call 0).row, (Instr.seImm 0 0).row, (Instr.sneImm 0 0).row,
    (Instr.seReg 0 0).row, (Instr.sneReg 0 0).row, (Instr.ldImm 0 0).row, (Instr.addImm 0 0).row] ++
  [(Instr.ldReg 0 0).row, (Instr.orReg 0 0).row, (Instr.andReg 0 0).row, (Instr.xorReg 0 0).row,
    (Instr.addReg 0 0).row, (Instr.subReg 0 0).row, (Instr.shr 0 0).row, (Instr.subnReg 0 0).row,
    (Instr.shl 0 0).row] ++
  [(Instr.ldI 0).row, (Instr.jpV0 0).row, (Instr.rnd 0 0).row, (Instr.drw 0 0 0).row, (Instr.skp 0).row,
    (Instr.sknp 0).row] ++
  [(Instr.ldVxDt 0).row, (Instr.ldVxK 0).row, (Instr.ldDtVx 0).row, (Instr.ldStVx 0).row, (Instr.addI 0).row,
    (Instr.ldF 0).row, (Instr.ldB 0).row, (Instr.storeRegs 0).row, (Instr.loadRegs 0).row]

/-- The `SYS` row, tried last (30_encoding.md R68). -/
def sysRow : OpcodeRow := (Instr.sys 0).row

/-- Whether a word is unrecognized in the sense of 30_encoding.md R67: R65 sends it to `unrecognized` or to `SYS`. Any
such word serves as a no-operation (R71). -/
def isUnrecognized (w : Word) : Bool :=
  match decodeWord w with
  | some i => i.row == sysRow
  | none => true

/-- The word a program uses where it needs a no-operation, `SYS 0x000` (30_encoding.md R71). -/
def noOperationWord : Word := 0x0000

/-- The instruction as the assembler encodes it: `SHR Vx` and `SHL Vx` are written with one operand and get `y = 0`
(30_encoding.md R70). -/
def Instr.assembled (i : Instr) : Instr :=
  match i with
  | .shr x _ => .shr x 0
  | .shl x _ => .shl x 0
  | .cls | .ret | .jp _ | .call _ | .seImm _ _ | .sneImm _ _ | .seReg _ _ | .sneReg _ _ => i
  | .ldImm _ _ | .addImm _ _ | .ldReg _ _ | .orReg _ _ | .andReg _ _ | .xorReg _ _ => i
  | .addReg _ _ | .subReg _ _ | .subnReg _ _ | .ldI _ | .jpV0 _ | .rnd _ _ | .drw _ _ _ => i
  | .skp _ | .sknp _ | .ldVxDt _ | .ldVxK _ | .ldDtVx _ | .ldStVx _ | .addI _ => i
  | .ldF _ | .ldB _ | .storeRegs _ | .loadRegs _ | .sys _ => i

end Sys2Proof
end

