-- ==== Sys2Proof/Config.lean ====
section
/-! DEFINITION. The parameters the document leaves open (00_scope.md R6) and the free values of the two input ports. -/

namespace Sys2Proof

/-- `FONT_WRITE_POLICY` (00_scope.md R6, 20_memory.md R46): whether a store into 0x000 to 0x04F changes memory. -/
inductive FontWritePolicy where
  | ignore
  | allow
deriving DecidableEq, Repr

/-- What one machine is built with (00_scope.md R6). `State` carries it, and no step changes it (log entry 3). -/
structure Config where
  /-- `FONT`: the 80 bytes at 0x000 to 0x04F after reset (10_state.md R21). -/
  font : Vector Byte 80
  /-- `FONT_WRITE_POLICY` (20_memory.md R46). -/
  fontWritePolicy : FontWritePolicy
deriving DecidableEq, Repr

/-- The default `FONT` of 10_state.md R21, one glyph a line.
PRESUMED (by the spec itself, "[from general knowledge, not in source]"; log entry 3). -/
def Config.defaultFont : Vector Byte 80 := #v[
  0xF0, 0x90, 0x90, 0x90, 0xF0,
  0x20, 0x60, 0x20, 0x20, 0x70,
  0xF0, 0x10, 0xF0, 0x80, 0xF0,
  0xF0, 0x10, 0xF0, 0x10, 0xF0,
  0x90, 0x90, 0xF0, 0x10, 0x10,
  0xF0, 0x80, 0xF0, 0x10, 0xF0,
  0xF0, 0x80, 0xF0, 0x90, 0xF0,
  0xF0, 0x10, 0x20, 0x40, 0x40,
  0xF0, 0x90, 0xF0, 0x90, 0xF0,
  0xF0, 0x90, 0xF0, 0x10, 0xF0,
  0xF0, 0x90, 0xF0, 0x90, 0x90,
  0xE0, 0x90, 0xE0, 0x90, 0xE0,
  0xF0, 0x80, 0x80, 0x80, 0xF0,
  0xE0, 0x90, 0x90, 0x90, 0xE0,
  0xF0, 0x80, 0xF0, 0x80, 0xF0,
  0xF0, 0x80, 0xF0, 0x80, 0x80]

/-- The defaults of 00_scope.md R6 (decisions D3 and D8; log entry 3). -/
def Config.default : Config where
  font := Config.defaultFont
  fontWritePolicy := .ignore

/-- FREE VALUE: sample number `k` of the port `keys_in`, where the state fixes none (10_state.md R26: "any 16-bit
value in any cycle"). DESIGN CHOICE, log entry 1. -/
opaque Config.freeKeys : Nat → BitVec 16

/-- FREE VALUE: sample number `k` of the port `rnd_in`, where the state fixes none (10_state.md R27: "a free draw:
any value from 0 to 255, with no law relating one sample to another"). DESIGN CHOICE, log entries 1 and 2. -/
opaque Config.freeRnd : Nat → BitVec 8

end Sys2Proof
end

