-- ==== Sys2Proof/Machine/State.lean ====
section
/-! DEFINITION. The state of the machine, whole (10_state.md R10 to R25, R39), why a step may stop, and the state
after reset (R37). -/

namespace Sys2Proof.Machine

/-- Why a step stops with a fault. EMPTY, and so nobody raises one: the hardware's two faults latch `FAULT`, and the
machine they leave is an ordinary next state (60_exceptions.md R150 to R154; log entry 6); nothing else faults (R151).
Safe: there is no stop here from which a claim could follow. -/
inductive Fault where
deriving DecidableEq, Repr

/-- Why an instruction has no meaning in the model. -/
inductive Refusal where
  /-- Raised by an arm of `exec` for an instruction that has no meaning yet; at present by none. Safe. -/
  | notModelled (mnemonic : String)
deriving DecidableEq, Repr

/-- An input port of the machine (10_state.md R26, R27): the samples the host has already fixed, oldest first, and how
many samples the core has taken. Where `pending` is empty the next sample is a free value numbered by `taken`
(DESIGN CHOICE, log entry 1). -/
structure InPort (n : Nat) where
  pending : List (BitVec n)
  taken : Nat
deriving DecidableEq, Repr

/-- Memory as (address, byte) pairs in one canonical form: addresses strictly rising, and no pair equal to what an
unlisted address reads as (20_memory.md R40; log entry 12). -/
abbrev Memory := List Host.Cell

/-- The state of the machine. -/
structure State where
  /-- `V[0]` to `V[15]` (10_state.md R10). -/
  v : Vector Byte 16
  /-- `I`, the index register (R15). -/
  i : Word
  /-- `pc`, the program counter (R13). -/
  pc : Word
  /-- `stack[0]` to `stack[15]` (R16). -/
  stack : Vector Word 16
  /-- `SP`, the count of live entries, 0 to 16 (R17; log entry 9). -/
  sp : Fin 17
  /-- `DT`, the delay timer (R18). -/
  dt : Byte
  /-- `ST`, the sound timer (R19). -/
  st : Byte
  /-- `keys`: bit `k` is key `k`, 1 is pressed (R22). -/
  keys : BitVec 16
  /-- `fb`: 32 rows of 64 pixels, top row first; bit `c` of a row is its column `c`, 1 is on (R23; log entry 15). -/
  fb : Vector (BitVec 64) 32
  /-- `dirty` (R24). -/
  dirty : Bool
  /-- `mem`, the memory store (R20). -/
  mem : Memory
  /-- `FAULT`, the fault latch, which is also the output port `fault` (R25, R30). -/
  fault : BitVec 2
  /-- The output pulse `beep` of the latest cycle (R28; log entry 5). -/
  beep : Bool
  /-- The output pulse `render_notify` of the latest cycle (R29; log entry 5). -/
  renderNotify : Bool
  /-- The input port `keys_in` (R26). -/
  keysIn : InPort 16
  /-- The input port `rnd_in` (R27). -/
  rndIn : InPort 8
  /-- The parameters `FONT` and `FONT_WRITE_POLICY` (00_scope.md R6; log entry 3). -/
  cfg : Config
deriving DecidableEq, Repr

/-- The state after reset (10_state.md R37), with the default parameters and an empty `ROM` (log entries 3 and 4).
Memory lists nothing: an unlisted address reads as its reset contents. -/
def State.reset : State where
  v := Vector.replicate 16 0
  i := 0
  pc := 0x0200
  stack := Vector.replicate 16 0
  sp := 0
  dt := 0
  st := 0
  keys := 0
  fb := Vector.replicate 32 0
  dirty := false
  mem := []
  fault := 0
  beep := false
  renderNotify := false
  keysIn := ⟨[], 0⟩
  rndIn := ⟨[], 0⟩
  cfg := Config.default

end Sys2Proof.Machine
end

