-- ==== Sys2Proof/Machine/Ops.lean ====
section
/-! DEFINITION. The operations the meanings share: memory, registers, call stack, ports, taking a fault, and the
phases of the machine cycle around the instruction. -/

namespace Sys2Proof.Machine

/-! ### Memory (20_memory.md R40 to R49) -/

/-- What an address that nothing has written reads as: its reset contents, `FONT` at 0x000 to 0x04F and 0x00 elsewhere
(10_state.md R21, R37; log entries 8 and 12). -/
def Memory.unlisted (cfg : Config) (a : Nat) : Byte :=
  if h : a < 80 then cfg.font[a] else 0

/-- The byte at address `a`. -/
def Memory.read (cfg : Config) : Memory → Nat → Byte
  | [], a => Memory.unlisted cfg a
  | (b, u) :: m, a => if a = b then u else Memory.read cfg m a

/-- Memory without its entry for address `a`. -/
def Memory.erase : Memory → Nat → Memory
  | [], _ => []
  | (b, u) :: m, a => if a = b then Memory.erase m a else (b, u) :: Memory.erase m a

/-- A new entry in its place in the rising order. -/
def Memory.insert : Memory → Nat → Byte → Memory
  | [], a, u => [(a, u)]
  | (b, t) :: m, a, u => if a < b then (a, u) :: (b, t) :: m else (b, t) :: Memory.insert m a u

/-- Memory with the byte `u` at address `a`, in canonical form. -/
def Memory.write (cfg : Config) (m : Memory) (a : Nat) (u : Byte) : Memory :=
  if u = Memory.unlisted cfg a then Memory.erase m a else Memory.insert (Memory.erase m a) a u

/-- The canonical form: addresses strictly rising, all of them inside the store, no entry equal to what an unlisted
address reads as. -/
def Memory.wf (cfg : Config) (m : Memory) : Bool :=
  decide ((m.map Prod.fst).Pairwise (· < ·)) && m.all fun c => decide (c.1 < 4096) && c.2 != Memory.unlisted cfg c.1

/-- `MemRead(a, 1)`: every address is reduced modulo 4096 (00_scope.md R8, 20_memory.md R43; log entry 23). -/
def State.readByte (s : State) (a : Nat) : Byte := Memory.read s.cfg s.mem (a % 4096)

/-- `MemRead(a, 2)`: two byte reads, the lower address in the high half (20_memory.md R44, R45; log entry 16). -/
def State.readWord (s : State) (a : Nat) : Word := wordOfBytes (s.readByte a) (s.readByte (a + 1))

/-- Whether a store to address `a` is dropped: the font region under the policy `ignore` (20_memory.md R46; decision
D8, log entry 24). -/
def State.drops (s : State) (a : Nat) : Bool :=
  s.cfg.fontWritePolicy == .ignore && decide (a % 4096 ≤ 0x04F)

/-- The store itself, without the font policy: what reset and the loader do (10_state.md R31). -/
def State.pokeByte (s : State) (a : Nat) (u : Byte) : State :=
  { s with mem := Memory.write s.cfg s.mem (a % 4096) u }

/-- `MemWrite(a, 1, u)` (00_scope.md R8, 20_memory.md R43, R46). -/
def State.writeByte (s : State) (a : Nat) (u : Byte) : State :=
  if s.drops a then s else s.pokeByte a u

/-! ### Registers (10_state.md R10 to R15) -/

/-- The read of a general register. -/
def State.reg (s : State) (x : Reg) : Byte := s.v[x]

/-- The write of a general register; none is hardwired (R10). -/
def State.setReg (s : State) (x : Reg) (u : Byte) : State := { s with v := s.v.set x u }

/-- The general register with number `k`, for the block copies, whose `k` runs from 0 to at most 15. -/
def regNumber (k : Nat) : Reg := Fin.ofNat 16 k

/-- `I <- u`. -/
def State.setI (s : State) (u : Word) : State := { s with i := u }

/-- `pc <- u`. -/
def State.setPc (s : State) (u : Word) : State := { s with pc := u }

/-- A conditional skip: 2 more on the advanced `pc`, modulo 65536 (40_flow_control.md R83). -/
def State.skipIf (s : State) (c : Bool) : State := s.setPc (if c then s.pc + 2 else s.pc)

/-! ### The call stack (10_state.md R16, R17; log entry 9) -/

/-- A push, defined only when `SP <= 15`: `stack[SP] <- u; SP <- SP + 1`. -/
def State.push (s : State) (u : Word) : Option State :=
  if h : s.sp.val < 16 then
    some { s with stack := s.stack.set s.sp.val u h, sp := ⟨s.sp.val + 1, Nat.succ_lt_succ h⟩ }
  else none

/-- A pop, defined only when `SP >= 1`: `SP <- SP - 1; value <- stack[SP]`. The entry stays, dead. -/
def State.pop (s : State) : Option (Word × State) :=
  if h : 0 < s.sp.val then
    have lt : s.sp.val - 1 < 16 := by omega
    some (s.stack[s.sp.val - 1], { s with sp := ⟨s.sp.val - 1, Nat.lt_succ_of_lt lt⟩ })
  else none

/-! ### Taking a fault (60_exceptions.md R150 to R155; decision D18, log entry 6)

There is no return beside it: no instruction leaves the halted state, only reset does (R155). -/

/-- The two exceptions (R150). -/
inductive Exception where
  | stackOverflow
  | stackUnderflow
deriving DecidableEq, Repr

/-- The code of an exception in `FAULT` (R150, R152). -/
def Exception.code : Exception → BitVec 2
  | .stackOverflow => 1
  | .stackUnderflow => 2

/-- `raise`: the latch takes the code and nothing else changes; `pc` keeps the advanced value the fetch gave it
(R152, R153). -/
def State.raise (s : State) (e : Exception) : State := { s with fault := e.code }

/-- Halted: `FAULT` is not 0 (R154). -/
def State.halted (s : State) : Bool := s.fault != 0

/-! ### Input ports (10_state.md R26, R27; log entries 1 and 2) -/

/-- The next sample of a port: the oldest one the host has fixed, or else a free value. -/
def InPort.value {n : Nat} (free : Nat → BitVec n) (p : InPort n) : BitVec n := p.pending.headD (free p.taken)

/-- The port after a sample is taken. -/
def InPort.advance {n : Nat} (p : InPort n) : InPort n := ⟨p.pending.tail, p.taken + 1⟩

/-- What `keys_in` shows in the coming key refresh. -/
def State.keysSample (s : State) : BitVec 16 := s.keysIn.value Config.freeKeys

/-- What `rnd_in` shows to the coming draw. -/
def State.rndSample (s : State) : Byte := s.rndIn.value Config.freeRnd

/-- `rnd_in` is sampled (R27). -/
def State.takeRnd (s : State) : State := { s with rndIn := s.rndIn.advance }

/-! ### The phases of the cycle around the instruction (10_state.md R32 to R36) -/

/-- Both output pulses low: a pulse lasts for its own cycle only (R28, R29; log entry 5). -/
def State.lowerPulses (s : State) : State := { s with beep := false, renderNotify := false }

/-- Phase 1, key refresh: all sixteen keys at once (R33). -/
def State.refreshKeys (s : State) : State := { s with keys := s.keysSample, keysIn := s.keysIn.advance }

/-- The state in which the cycle fetches: pulses low, keys refreshed. -/
def State.cycleStart (s : State) : State := s.lowerPulses.refreshKeys

/-- The instruction word at `pc` (30_encoding.md R60, 20_memory.md R44). -/
def State.fetch (s : State) : Word := s.readWord s.pc.toNat

/-- `pc <- (pc + 2) mod 65536`, before dispatch (30_encoding.md R60). -/
def State.advancePc (s : State) : State := s.setPc (s.pc + 2)

/-- One count down, to a floor of 0 (10_state.md R35). -/
def countDown (u : Byte) : Byte := if u = 0 then 0 else u - 1

/-- Phase 3, timer tick (10_state.md R35; decision D17, log entry 25). -/
def State.tick (s : State) : State :=
  { s with
    dt := countDown s.dt
    st := countDown s.st
    beep := s.st != 0 && countDown s.st == 0 }

/-- Phase 4, render notification (10_state.md R36; decision D24, log entry 25). -/
def State.render (s : State) : State := { s with renderNotify := s.dirty, dirty := false }

/-- Phases 3 and 4, which do not take place in a cycle whose instruction raised (10_state.md R32, 60_exceptions.md
R153). -/
def State.cycleEnd (s : State) : State := if s.halted then s else s.tick.render

/-! ### Reset with a program, and placing one instruction (10_state.md R31, 70_reset_and_hazards.md R180 to R184) -/

/-- Bytes stored one after the other from address `a` up. -/
def State.pokeBytes (s : State) (a : Nat) : List Byte → State
  | [] => s
  | u :: us => (s.pokeByte a u).pokeBytes (a + 1) us

/-- Reset with its arguments `FONT`, `FONT_WRITE_POLICY` and `ROM`; a `ROM` longer than 3584 bytes is refused (R184;
log entry 4). The state before reset plays no part (R180). -/
def State.boot (cfg : Config) (rom : List Byte) : Option State :=
  if rom.length ≤ 3584 then some (({ State.reset with cfg := cfg } : State).pokeBytes 0x200 rom) else none

/-- `reset` asserted on a machine in any state, a halted one too (R180): the state before plays no part, but for the two
input ports, which are the host's and go on with their samples (log entries 1 and 27). -/
def State.assertReset (s : State) (cfg : Config) (rom : List Byte) : Option State :=
  match State.boot cfg rom with
  | some t => some { t with keysIn := s.keysIn, rndIn := s.rndIn }
  | none => none

/-- A word stored where the next fetch reads it (log entry 14). -/
def State.placeWord (s : State) (w : Word) : State := s.pokeBytes s.pc.toNat (bytesOfWord w)

end Sys2Proof.Machine
end

