-- ==== Sys2Proof/Machine/Flags.lean ====
section
/-! DEFINITION. Every flag computation of the instruction set (10_state.md R12). The flag register is VF, `V[15]`. -/

namespace Sys2Proof.Machine

/-- VF (10_state.md R12). -/
def regF : Reg := 15

/-- A flag as the byte 0 or 1 (10_state.md R12). -/
def flagByte (c : Bool) : Byte := if c then 1 else 0

/-- The carry of an addition: the 9-bit sum exceeds 255 (41_register_alu.md R107). -/
def carry (a b : Byte) : Bool := decide (a.toNat + b.toNat > 255)

/-- No borrow in `a - b`: `a >= b` (41_register_alu.md R108, R110; decision D13, log entry 24). -/
def noBorrow (a b : Byte) : Bool := decide (b.toNat ≤ a.toNat)

/-- The bit a right shift moves out (41_register_alu.md R109). -/
def lowBit (a : Byte) : Bool := a.getLsbD 0

/-- The bit a left shift moves out (41_register_alu.md R111). -/
def highBit (a : Byte) : Bool := a.getLsbD 7

/-- `V[15] <- c`. -/
def State.setFlag (s : State) (c : Bool) : State := s.setReg regF (flagByte c)

/-- The result into `Vx`, then the flag into VF, so that the flag survives when `x` is 15 (41_register_alu.md R100;
decision D10, log entry 18). -/
def State.setResult (s : State) (x : Reg) (u : Byte) (c : Bool) : State := (s.setReg x u).setFlag c

end Sys2Proof.Machine
end

