-- ==== Sys2Proof/Machine/Operands.lean ====
section
/-! DEFINITION. The operand forms of the instruction set (30_encoding.md R64, 42_index_memory.md R126). -/

namespace Sys2Proof.Machine

/-- The 12-bit address `nnn`, zero-extended to 16 bits (30_encoding.md R64). -/
def addrOperand (nnn : BitVec 12) : Word := nnn.setWidth 16

/-- A general register zero-extended to 16 bits (`zext_16(V[x])`, 40_flow_control.md R87, 42_index_memory.md R121). -/
def State.regWord (s : State) (x : Reg) : Word := (s.reg x).setWidth 16

/-- The key a register selects: its low four bits (44_keypad_timers.md R140; decision D14, log entry 20). -/
def State.keyOperand (s : State) (x : Reg) : Nat := ((s.reg x).extractLsb' 0 4).toNat

/-- The nominal address of offset `k` from `I`; the access reduces it modulo 4096 (42_index_memory.md R126). -/
def State.indexed (s : State) (k : Nat) : Nat := s.i.toNat + k

/-- `(I + k) mod 4096`, the value an index addition leaves in `I` (42_index_memory.md R121, R124, R125). -/
def State.indexPlus (s : State) (k : Nat) : Word := BitVec.ofNat 16 ((s.i.toNat + k) % 4096)

/-- `Vx * 5`, of the whole register (42_index_memory.md R122; decision D26, log entry 24). -/
def State.glyphAddr (s : State) (x : Reg) : Word := s.regWord x * 5

/-- The hundreds digit of a byte, 0 to 2 (42_index_memory.md R123). -/
def hundreds (u : Byte) : Byte := BitVec.ofNat 8 (u.toNat / 100)

/-- The tens digit of a byte, 0 to 9 (R123). -/
def tens (u : Byte) : Byte := BitVec.ofNat 8 (u.toNat / 10 % 10)

/-- The ones digit of a byte, 0 to 9 (R123). -/
def ones (u : Byte) : Byte := BitVec.ofNat 8 (u.toNat % 10)

end Sys2Proof.Machine
end

