-- ==== Sys2Proof/Machine/Display.lean ====
section
/-! DEFINITION. The display and the sprite engine (43_display.md). -/

namespace Sys2Proof.Machine

/-- The display buffer: 32 rows of 64 pixels (10_state.md R23). -/
abbrev Pixels := Vector (BitVec 64) 32

/-- The row that holds pixel `p` (10_state.md R23: "column `p mod 64` of row `p div 64`"). -/
def rowOf (p : Nat) : Fin 32 := Fin.ofNat 32 (p / 64)

/-- Pixel `p` of a buffer, `p` from 0 to 2047. -/
def Pixels.get (fb : Pixels) (p : Nat) : Bool := fb[rowOf p].getLsbD (p % 64)

/-- A buffer with pixel `p` toggled. -/
def Pixels.flip (fb : Pixels) (p : Nat) : Pixels := fb.set (rowOf p) (fb[rowOf p] ^^^ BitVec.twoPow 64 (p % 64))

/-- Every pixel off. -/
def Pixels.allOff : Pixels := Vector.replicate 32 0

/-- Pixel `p` of the display buffer (10_state.md R23). -/
def State.pixel (s : State) (p : Nat) : Bool := Pixels.get s.fb p

/-- The flattened index of the sprite pixel in row `r` and column `c` of a sprite at `(X, Y)` (43_display.md R131;
decision D28, log entry 15). -/
def spritePixel (X Y r c : Nat) : Nat := (X + c + (Y + r) * 64) % 2048

/-- Bit `7 - c` of a row byte is column `c`, bit 7 leftmost (43_display.md R131; decision D2, log entry 17). -/
def spriteBit (b : Byte) (c : Nat) : Bool := b.getLsbD (7 - c)

/-- What a draw works on: the buffer, and whether a pixel that was on has been turned off. -/
structure Canvas where
  fb : Pixels
  hit : Bool
deriving DecidableEq, Repr

/-- Toggle pixel `p`, remembering a collision (43_display.md R132). -/
def Canvas.toggle (d : Canvas) (p : Nat) : Canvas := ⟨Pixels.flip d.fb p, d.hit || Pixels.get d.fb p⟩

/-- The first `n` columns of row `r`, whose byte is `b`: each set bit toggles its pixel. -/
def Canvas.drawColumns (X Y r : Nat) (b : Byte) : Nat → Canvas → Canvas
  | 0, d => d
  | c + 1, d =>
    if spriteBit b c then (Canvas.drawColumns X Y r b c d).toggle (spritePixel X Y r c)
    else Canvas.drawColumns X Y r b c d

/-- The first `n` rows of the sprite at `I`. -/
def State.drawRows (s : State) (X Y : Nat) : Nat → Canvas → Canvas
  | 0, d => d
  | r + 1, d => Canvas.drawColumns X Y r (s.readByte (s.indexed r)) 8 (s.drawRows X Y r d)

/-- The buffer and the collision after the whole sprite, VF having been reset to 0 (43_display.md R132). -/
def State.drawn (s : State) (X Y n : Nat) : Canvas := s.drawRows X Y n ⟨s.fb, false⟩

/-- The draw: `fb`, VF and `dirty`. -/
def State.drawSprite (s : State) (X Y n : Nat) : State :=
  ({ s with fb := (s.drawn X Y n).fb, dirty := true } : State).setFlag (s.drawn X Y n).hit

/-- `CLS` (R130). -/
def execCls (s : State) : Host.Outcome State Fault Refusal :=
  .next { s with fb := Pixels.allOff, dirty := true }

/-- `DRW Vx, Vy, n` (R132): the coordinates are the whole registers, read before VF is reset (decision D16, log entry
22). -/
def execDrw (x y n : Fin 16) (s : State) : Host.Outcome State Fault Refusal :=
  .next (s.drawSprite (s.reg x).toNat (s.reg y).toNat n.val)

end Sys2Proof.Machine
end

