-- ==== Sys2Proof/Machine/Flow.lean ====
section
/-! DEFINITION. Control flow (40_flow_control.md). In every meaning `pc` is the already advanced program counter. -/

namespace Sys2Proof.Machine

/-- `RET` (R80). -/
def execRet (s : State) : Host.Outcome State Fault Refusal :=
  .next (match s.pop with
    | some (u, t) => t.setPc u
    | none => s.raise .stackUnderflow)

/-- `JP nnn` (R81). -/
def execJp (nnn : BitVec 12) (s : State) : Host.Outcome State Fault Refusal :=
  .next (s.setPc (addrOperand nnn))

/-- `CALL nnn` (R82): the pushed value is the advanced `pc`. -/
def execCall (nnn : BitVec 12) (s : State) : Host.Outcome State Fault Refusal :=
  .next (match s.push s.pc with
    | some t => t.setPc (addrOperand nnn)
    | none => s.raise .stackOverflow)

/-- `SE Vx, nn` (R83). -/
def execSeImm (x : Reg) (nn : Byte) (s : State) : Host.Outcome State Fault Refusal :=
  .next (s.skipIf (s.reg x == nn))

/-- `SNE Vx, nn` (R84). -/
def execSneImm (x : Reg) (nn : Byte) (s : State) : Host.Outcome State Fault Refusal :=
  .next (s.skipIf (s.reg x != nn))

/-- `SE Vx, Vy` (R85). -/
def execSeReg (x y : Reg) (s : State) : Host.Outcome State Fault Refusal :=
  .next (s.skipIf (s.reg x == s.reg y))

/-- `SNE Vx, Vy` (R86). -/
def execSneReg (x y : Reg) (s : State) : Host.Outcome State Fault Refusal :=
  .next (s.skipIf (s.reg x != s.reg y))

/-- `JP V0, nnn` (R87): the sum is not reduced modulo 4096 (decision D27, log entry 23). -/
def execJpV0 (nnn : BitVec 12) (s : State) : Host.Outcome State Fault Refusal :=
  .next (s.setPc (addrOperand nnn + s.regWord 0))

/-- `SYS nnn` (R88): nothing but the advance of the fetch. `SYS 0x000` is what programs write for a no-operation
(30_encoding.md R71). -/
def execSys (_nnn : BitVec 12) (s : State) : Host.Outcome State Fault Refusal :=
  .next s

/-- A word that matches no row of the table (R88, 30_encoding.md R67; log entry 7): nothing but the advance of the
fetch, so that any such word serves as a no-operation (30_encoding.md R71). -/
def execUnrecognized (_w : Word) (s : State) : Host.Outcome State Fault Refusal :=
  .next s

end Sys2Proof.Machine
end

