-- ==== Sys2Proof/Machine/Index.lean ====
section
/-! DEFINITION. The index register and memory (42_index_memory.md). -/

namespace Sys2Proof.Machine

/-- `for k from 0 to n - 1 do MemWrite(I + k, 1, V[k])` (R124). -/
def State.storeBlock : Nat → State → State
  | 0, s => s
  | k + 1, s => (State.storeBlock k s).writeByte (s.indexed k) (s.reg (regNumber k))

/-- `for k from 0 to n - 1 do V[k] <- MemRead(I + k, 1)` (R125). -/
def State.loadBlock : Nat → State → State
  | 0, s => s
  | k + 1, s => (State.loadBlock k s).setReg (regNumber k) (s.readByte (s.indexed k))

/-- `LD I, nnn` (R120). -/
def execLdI (nnn : BitVec 12) (s : State) : Host.Outcome State Fault Refusal :=
  .next (s.setI (addrOperand nnn))

/-- `ADD I, Vx` (R121): modulo 4096, no flag. -/
def execAddI (x : Reg) (s : State) : Host.Outcome State Fault Refusal :=
  .next (s.setI (s.indexPlus (s.reg x).toNat))

/-- `LD F, Vx` (R122). -/
def execLdF (x : Reg) (s : State) : Host.Outcome State Fault Refusal :=
  .next (s.setI (s.glyphAddr x))

/-- `LD B, Vx` (R123): three digits, most significant at the lowest address; `I` is not changed. -/
def execLdB (x : Reg) (s : State) : Host.Outcome State Fault Refusal :=
  .next (((s.writeByte (s.indexed 0) (hundreds (s.reg x))).writeByte
    (s.indexed 1) (tens (s.reg x))).writeByte (s.indexed 2) (ones (s.reg x)))

/-- `LD [I], Vx` (R124): `I` advances by `x + 1`, also past bytes that were dropped. -/
def execStoreRegs (x : Reg) (s : State) : Host.Outcome State Fault Refusal :=
  .next ((s.storeBlock (x.val + 1)).setI (s.indexPlus (x.val + 1)))

/-- `LD Vx, [I]` (R125): `I` advances by `x + 1`. -/
def execLoadRegs (x : Reg) (s : State) : Host.Outcome State Fault Refusal :=
  .next ((s.loadBlock (x.val + 1)).setI (s.indexPlus (x.val + 1)))

end Sys2Proof.Machine
end

