-- ==== Sys2Proof/Machine/Step.lean ====
section
/-! DEFINITION. The machine cycle (10_state.md R32 to R36), which is the machine's one step. -/

namespace Sys2Proof.Machine

/-- Decode a fetched word and execute it; a word that matches no row is a no-operation (30_encoding.md R60, R65, R67;
log entry 7). -/
def execWord (w : Word) (s : State) : Host.Outcome State Fault Refusal :=
  match decodeWord w with
  | some i => exec i s
  | none => execUnrecognized w s

/-- Phases 3 and 4 after the instruction phase. -/
def finishCycle : Host.Outcome State Fault Refusal → Host.Outcome State Fault Refusal
  | .next s => .next s.cycleEnd
  | .fault r => .fault r
  | .refused r => .refused r

/-- One cycle: key refresh, exactly one instruction, timer tick, render notification (10_state.md R32). A halted
machine changes nothing and raises no pulse (60_exceptions.md R154). -/
def step (s : State) : Host.Outcome State Fault Refusal :=
  if s.halted then .next s.lowerPulses
  else finishCycle (execWord s.cycleStart.fetch s.cycleStart.advancePc)

/-- The state with an opcode-table word stored where the next step fetches, big-endian at `pc` (log entry 14). -/
def State.withFetchWord (s : State) (nbits w : Nat) : State := s.placeWord (tableWord nbits w)

end Sys2Proof.Machine
end

