-- ==== Sys2Proof/Safety.lean ====
section
/-! DEFINITION. What counts as a legal state and a safe run, and the spec's whole-machine tables in the terms claims
use (10_state.md R11, R12, R14, R38; 60_exceptions.md R154). -/

namespace Sys2Proof.Machine

/-! ### Legal states and safe runs -/

/-- The states a cycle boundary can show (10_state.md R15, R24, R38; 60_exceptions.md R152, R153). -/
structure State.Legal (s : State) : Prop where
  /-- `I` is below 4096 (10_state.md R15). -/
  index : s.i.toNat < 4096
  /-- Memory is in canonical form (log entry 12). -/
  memory : Memory.wf s.cfg s.mem = true
  /-- The font region holds `FONT` under the policy `ignore` (10_state.md R38, 20_memory.md R46). -/
  font : s.cfg.fontWritePolicy = .ignore → ∀ a (h : a < 80), s.readByte a = s.cfg.font[a]
  /-- `dirty` is 0 at every cycle boundary (10_state.md R24). -/
  clean : s.dirty = false
  /-- The code 3 is never produced (60_exceptions.md R152; log entry 10). -/
  code : s.fault ≠ 3
  /-- A halted machine shows no pulse (60_exceptions.md R153, R154). -/
  quiet : s.halted = true → s.beep = false ∧ s.renderNotify = false

/-- A run of `n` cycles in which the machine is never halted: 60_exceptions.md R154 asks every claim about a later
state to carry `FAULT = 0`. -/
def runSafe : Nat → State → Bool
  | 0, s => !s.halted
  | n + 1, s => !s.halted && match step s with
    | .next t => runSafe n t
    | .fault _ => false
    | .refused _ => false

/-! ### The vocabulary of frames -/

/-- Every byte of memory reads as before. -/
def State.SameMemory (s t : State) : Prop := ∀ a, t.readByte a = s.readByte a

/-- Every byte of memory outside the `n` bytes from nominal address `a` reads as before; addresses wrap modulo 4096
one by one (20_memory.md R43). -/
def State.SameMemoryOutside (s t : State) (a n : Nat) : Prop :=
  ∀ b, (∀ k < n, b % 4096 ≠ (a + k) % 4096) → t.readByte b = s.readByte b

/-- The instruction word at `pc`, from its two bytes: the one at the lower address counts 256 (20_memory.md R44, R45;
decision D1, log entry 16). -/
def State.wordAtPc (s : State) : Word :=
  BitVec.ofNat 16 ((s.readByte s.pc.toNat).toNat * 256 + (s.readByte (s.pc.toNat + 1)).toNat)

end Sys2Proof.Machine

namespace Sys2Proof

open Sys2Proof.Machine

/-! ### Tables of the spec -/

/-- The "writes" column of 10_state.md R11: whether the instruction may assign general register `r` in state `s`. -/
def Instr.writesReg (i : Instr) (s : State) (r : Reg) : Bool :=
  match i with
  | .cls | .ret | .jp _ | .call _ => false
  | .seImm _ _ | .sneImm _ _ | .seReg _ _ | .sneReg _ _ => false
  | .ldImm x _ | .addImm x _ | .ldReg x _ | .orReg x _ | .andReg x _ | .xorReg x _ | .rnd x _ => r == x
  | .addReg x _ | .subReg x _ | .shr x _ | .subnReg x _ | .shl x _ => r == x || r == 15
  | .ldI _ | .jpV0 _ => false
  | .drw _ _ _ => r == 15
  | .skp _ | .sknp _ => false
  | .ldVxDt x => r == x
  | .ldVxK x => r == x && s.keys != 0
  | .ldDtVx _ | .ldStVx _ | .addI _ | .ldF _ | .ldB _ | .storeRegs _ => false
  | .loadRegs x => decide (r.val ≤ x.val)
  | .sys _ => false

/-- The six instructions that write VF as a flag (10_state.md R12). -/
def Instr.writesFlag (i : Instr) : Bool :=
  match i with
  | .addReg _ _ | .subReg _ _ | .shr _ _ | .subnReg _ _ | .shl _ _ | .drw _ _ _ => true
  | .cls | .ret | .jp _ | .call _ | .seImm _ _ | .sneImm _ _ | .seReg _ _ | .sneReg _ _ => false
  | .ldImm _ _ | .addImm _ _ | .ldReg _ _ | .orReg _ _ | .andReg _ _ | .xorReg _ _ | .rnd _ _ => false
  | .ldI _ | .jpV0 _ | .skp _ | .sknp _ | .ldVxDt _ | .ldVxK _ | .ldDtVx _ | .ldStVx _ => false
  | .addI _ | .ldF _ | .ldB _ | .storeRegs _ | .loadRegs _ | .sys _ => false

/-- The instructions 10_state.md R14 lists with a `pc` of their own. -/
def Instr.transfersControl (i : Instr) : Bool :=
  match i with
  | .ret | .jp _ | .call _ | .seImm _ _ | .sneImm _ _ | .seReg _ _ | .sneReg _ _ | .jpV0 _ => true
  | .skp _ | .sknp _ | .ldVxK _ => true
  | .cls | .ldImm _ _ | .addImm _ _ | .ldReg _ _ | .orReg _ _ | .andReg _ _ | .xorReg _ _ => false
  | .addReg _ _ | .subReg _ _ | .shr _ _ | .subnReg _ _ | .shl _ _ | .ldI _ | .rnd _ _ | .drw _ _ _ => false
  | .ldVxDt _ | .ldDtVx _ | .ldStVx _ | .addI _ | .ldF _ | .ldB _ | .storeRegs _ | .loadRegs _ | .sys _ => false

/-- The call stack is reached by `CALL` and `RET` only (10_state.md R16, R17). -/
def Instr.usesStack (i : Instr) : Bool :=
  match i with
  | .ret | .call _ => true
  | .cls | .jp _ | .seImm _ _ | .sneImm _ _ | .seReg _ _ | .sneReg _ _ | .jpV0 _ => false
  | .ldImm _ _ | .addImm _ _ | .ldReg _ _ | .orReg _ _ | .andReg _ _ | .xorReg _ _ => false
  | .addReg _ _ | .subReg _ _ | .shr _ _ | .subnReg _ _ | .shl _ _ | .ldI _ | .rnd _ _ | .drw _ _ _ => false
  | .skp _ | .sknp _ | .ldVxDt _ | .ldVxK _ | .ldDtVx _ | .ldStVx _ | .addI _ => false
  | .ldF _ | .ldB _ | .storeRegs _ | .loadRegs _ | .sys _ => false

/-- The five instructions that write `I` (10_state.md R15). -/
def Instr.writesIndex (i : Instr) : Bool :=
  match i with
  | .ldI _ | .addI _ | .ldF _ | .storeRegs _ | .loadRegs _ => true
  | .cls | .ret | .jp _ | .call _ | .seImm _ _ | .sneImm _ _ | .seReg _ _ | .sneReg _ _ | .jpV0 _ => false
  | .ldImm _ _ | .addImm _ _ | .ldReg _ _ | .orReg _ _ | .andReg _ _ | .xorReg _ _ => false
  | .addReg _ _ | .subReg _ _ | .shr _ _ | .subnReg _ _ | .shl _ _ | .rnd _ _ | .drw _ _ _ => false
  | .skp _ | .sknp _ | .ldVxDt _ | .ldVxK _ | .ldDtVx _ | .ldStVx _ | .ldB _ | .sys _ => false

/-- The two instructions that write the display buffer and set `dirty` (10_state.md R23, R24). -/
def Instr.draws (i : Instr) : Bool :=
  match i with
  | .cls | .drw _ _ _ => true
  | .ret | .jp _ | .call _ | .seImm _ _ | .sneImm _ _ | .seReg _ _ | .sneReg _ _ | .jpV0 _ => false
  | .ldImm _ _ | .addImm _ _ | .ldReg _ _ | .orReg _ _ | .andReg _ _ | .xorReg _ _ => false
  | .addReg _ _ | .subReg _ _ | .shr _ _ | .subnReg _ _ | .shl _ _ | .rnd _ _ | .ldI _ => false
  | .skp _ | .sknp _ | .ldVxDt _ | .ldVxK _ | .ldDtVx _ | .ldStVx _ | .addI _ => false
  | .ldF _ | .ldB _ | .storeRegs _ | .loadRegs _ | .sys _ => false

/-- The number of bytes an instruction stores from `I` up (20_memory.md R42). -/
def Instr.storedBytes (i : Instr) : Nat :=
  match i with
  | .ldB _ => 3
  | .storeRegs x => x.val + 1
  | .cls | .ret | .jp _ | .call _ | .seImm _ _ | .sneImm _ _ | .seReg _ _ | .sneReg _ _ | .jpV0 _ => 0
  | .ldImm _ _ | .addImm _ _ | .ldReg _ _ | .orReg _ _ | .andReg _ _ | .xorReg _ _ => 0
  | .addReg _ _ | .subReg _ _ | .shr _ _ | .subnReg _ _ | .shl _ _ | .rnd _ _ | .drw _ _ _ => 0
  | .ldI _ | .skp _ | .sknp _ | .ldVxDt _ | .ldVxK _ | .ldDtVx _ | .ldStVx _ | .addI _ => 0
  | .ldF _ | .loadRegs _ | .sys _ => 0

end Sys2Proof
end

