-- ==== Sys2Proof/Certificates/Slice0/Obligations.lean ====
section
/-! DEFINITION. The statements for the provers. Each is about every state, or every instruction, that meets its
premises. Where a clause rests on one of the spec's own decisions (D<n> of 92_eei_decisions.md) or on a choice of the
model, its docstring names the log entry. -/

open Sys2Proof Sys2Proof.Machine

/-! ### Encoding -/

/-- Decoding the word, and the bytes, of a well-formed instruction gives the instruction back, with every operand
(30_encoding.md R62, R63, R69; how much of the word selects an instruction is decision D9, log entry 7). That the fields
the hardware ignores are operands, and which terms are well-formed, is the model's choice (log entry 26). -/
def Obligations.DecodeOfEncodeIsTheInstruction : Prop :=
  ∀ (i : Instr) (rest : List Byte), i.wellFormed = true →
    decodeWord (encode i) = some i ∧ decode (encodeBytes i ++ rest) = .ok (i, rest)

/-- A word that decodes is the word of the well-formed instruction term it decodes to, so that no two words share a
term. That is the MODEL'S CHOICE of log entry 26, not the spec's: the terms keep the fields the hardware ignores (`y` of
`SHR` and `SHL`, `nnn` of `SYS`), and words that differ only in those are the same instruction to the spec
(30_encoding.md R64). Which words decode is decision D9 (log entry 7). -/
def Obligations.EncodeOfDecodeIsTheWord : Prop :=
  ∀ (w : Word) (i : Instr), decodeWord w = some i → i.wellFormed = true ∧ encode i = w

/-- The words that match no row are exactly those of the last five lines of the table of 30_encoding.md R67, and the
`SYS` words are exactly those of its first line (decisions D9 and D22). That the decoder answers nothing for a word of
no row is the model's choice (log entry 7): to the spec it is a no-operation. -/
def Obligations.UnrecognizedWordsAreTheListedOnes : Prop :=
  ∀ w : Word,
    (decodeWord w = none ↔
      (w.toNat / 4096 = 0x5 ∧ w.toNat % 16 ≠ 0) ∨
      (w.toNat / 4096 = 0x8 ∧ w.toNat % 16 ∈ [0x8, 0x9, 0xA, 0xB, 0xC, 0xD, 0xF]) ∨
      (w.toNat / 4096 = 0x9 ∧ w.toNat % 16 ≠ 0) ∨
      (w.toNat / 4096 = 0xE ∧ w.toNat % 256 ∉ [0x9E, 0xA1]) ∨
      (w.toNat / 4096 = 0xF ∧ w.toNat % 256 ∉ [0x07, 0x0A, 0x15, 0x18, 0x1E, 0x29, 0x33, 0x55, 0x65])) ∧
    ((∃ nnn, decodeWord w = some (.sys nnn)) ↔ w.toNat < 4096 ∧ w ≠ 0x00E0 ∧ w ≠ 0x00EE)

/-- The decoding procedure of 30_encoding.md R65 agrees with the `mask` and `match` columns of R69: a decoded
instruction's row covers the word; `SYS` is decoded only where no other row covers it; a word that decodes to nothing
is covered by no row; and no word is covered by two rows other than `SYS` (decisions D9 and D22). That the decoder
answers nothing for a word of no row is the model's choice (log entry 7). -/
def Obligations.DecoderAgreesWithTheOpcodeTable : Prop :=
  ∀ w : Word,
    (∀ i, decodeWord w = some i → i.row.covers w = true ∧
      (i.row = sysRow ∨ i.row ∈ opcodeRows) ∧
      (i.row = sysRow → ∀ r ∈ opcodeRows, r.covers w = false)) ∧
    (decodeWord w = none → ∀ r ∈ sysRow :: opcodeRows, r.covers w = false) ∧
    (∀ r ∈ opcodeRows, ∀ q ∈ opcodeRows, r.covers w = true → q.covers w = true → r = q)

/-- The first of the two bytes of an instruction is its high byte (decision D1, log entry 16), every instruction has two
bytes and the rest is left over (30_encoding.md R61). That the byte decoder rejects a word of no row, by name, and rejects
fewer than two bytes is the MODEL'S CHOICE of log entry 7, not the spec's: to the spec such a word decodes to a
no-operation and nothing is illegal (30_encoding.md R65, R66), and the machine's step runs it so. -/
def Obligations.BytesDecodeHighByteFirst : Prop :=
  (∀ (hi lo : Byte) (rest : List Byte),
    decode (hi :: lo :: rest) =
      match decodeWord (BitVec.ofNat 16 (hi.toNat * 256 + lo.toNat)) with
      | some i => .ok (i, rest)
      | none => .error (.unrecognized (BitVec.ofNat 16 (hi.toNat * 256 + lo.toNat)))) ∧
  decode [] = .error .truncated ∧ ∀ b : Byte, decode [b] = .error .truncated

/-- Words written out from the encoding column of 30_encoding.md R69, at least one of each format, and two words that
match no row (decision D9), for which answering nothing is the model's choice (log entry 7). -/
def Obligations.DecodesTheWordsWrittenOut : Prop :=
  decodeWord 0x00E0 = some .cls ∧ decodeWord 0x00EE = some .ret ∧ decodeWord 0x0123 = some (.sys 0x123) ∧
  decodeWord 0x2ABC = some (.call 0xABC) ∧ decodeWord 0xB300 = some (.jpV0 0x300) ∧
  decodeWord 0x6A2F = some (.ldImm 0xA 0x2F) ∧ decodeWord 0x5120 = some (.seReg 1 2) ∧
  decodeWord 0x5121 = none ∧ decodeWord 0x812E = some (.shl 1 2) ∧ decodeWord 0x8128 = none ∧
  decodeWord 0xDF15 = some (.drw 0xF 1 5) ∧ decodeWord 0xE49E = some (.skp 4) ∧
  decodeWord 0xF30A = some (.ldVxK 3) ∧ decodeWord 0xFF65 = some (.loadRegs 0xF)

/-- A `SHR` or `SHL` word with another `y` executes identically, and so does every instruction in the form the assembler
gives it, which sets that `y` to 0 (30_encoding.md R64; the assembler is decision D21, ignoring `y` decision D11, log
entry 19; that `y` is an operand of the term is the model's choice, log entry 26). -/
def Obligations.ShiftWordsExecuteAlikeForEveryY : Prop :=
  (∀ (x y z n : BitVec 4) (s : State), n = 0x6 ∨ n = 0xE →
    execWord (0x8#4 ++ (x ++ (y ++ n))) s = execWord (0x8#4 ++ (x ++ (z ++ n))) s) ∧
  (∀ (x y : Reg), encode (Instr.shr x y).assembled = 0x8#4 ++ (BitVec.ofNat 4 x ++ (0x0#4 ++ 0x6#4)) ∧
    encode (Instr.shl x y).assembled = 0x8#4 ++ (BitVec.ofNat 4 x ++ (0x0#4 ++ 0xE#4))) ∧
  ∀ (i : Instr) (s : State), exec i.assembled s = exec i s

/-- Any unrecognized word serves as a no-operation, the word of `SYS 0x000` among them: executing it leaves the state the
fetch left (30_encoding.md R67, R71; which words are unrecognized is decision D9, the row `SYS` decision D22, log entry
7). -/
def Obligations.AnyUnrecognizedWordServesAsNoOperation : Prop :=
  (∀ w : Word, isUnrecognized w = true → ∀ s : State, execWord w s = .next s) ∧
  (∀ w : Word, isUnrecognized w = true ↔ decodeWord w = none ∨ ∃ nnn, decodeWord w = some (.sys nnn)) ∧
  noOperationWord = encode (.sys 0x000) ∧ isUnrecognized noOperationWord = true

/-! ### The cycle -/

/-- In a machine that is not halted, one step is: pulses low and keys refreshed, `pc` advanced by 2, the decoded
instruction executed, and, unless it raised, the timers ticked and the renderer notified (10_state.md R32 to R36,
30_encoding.md R60, 60_exceptions.md R153; the word's byte order is decision D1, the tick D17 and D23, the notification
D24, the cycle that raises D18: log entries 5, 6, 16 and 25; that such a word decodes to nothing is the model's choice,
log entry 7). A word that matches no row does only the rest
(30_encoding.md R67). That an instruction always answers a next state is InstructionsCompleteAndRaiseOnlyStackFaults. -/
def Obligations.StepRunsTheDecodedInstruction : Prop :=
  ∀ s : State, s.fault = 0 →
    ∃ u : State,
      u = { s with keys := s.keysSample, keysIn := s.keysIn.advance, beep := false, renderNotify := false,
                   pc := s.pc + 2 } ∧
      (∀ i, decodeWord s.wordAtPc = some i → ∀ t, exec i u = .next t →
        step s = .next (if t.fault = 0 then
          { t with dt := countDown t.dt, st := countDown t.st, beep := decide (t.st = 1),
                   renderNotify := t.dirty, dirty := false }
          else t)) ∧
      (decodeWord s.wordAtPc = none →
        step s = .next { u with dt := countDown u.dt, st := countDown u.st, beep := decide (u.st = 1),
                                renderNotify := u.dirty, dirty := false })

/-- A cycle issued to a halted machine changes no state, samples no input and raises no pulse (60_exceptions.md R154;
decision D18, log entry 6). -/
def Obligations.HaltedMachineChangesNothing : Prop :=
  ∀ s : State, s.fault ≠ 0 → step s = .next { s with beep := false, renderNotify := false }

/-- No cycle of any state stops with a fault of the model or a refusal (60_exceptions.md R151, 30_encoding.md R66; that a
halted machine takes a cycle that changes nothing is decision D18, log entry 6). -/
def Obligations.EveryCycleCompletes : Prop :=
  ∀ s : State, ∃ t, step s = .next t

/-- `FAULT` leaves 0 in exactly two cases: a `CALL` at `SP = 16`, with code 1, and a `RET` at `SP = 0`, with code 2;
in that cycle `pc` advances by 2, the keys have been refreshed, and nothing else changes: no stack entry, no timer, no
pulse (60_exceptions.md R150 to R153; decision D18, log entry 6). -/
def Obligations.OnlyTheTwoStackFaultsHalt : Prop :=
  ∀ s t : State, s.fault = 0 → step s = .next t →
    (t.fault = 1 ↔ (∃ nnn, decodeWord s.wordAtPc = some (.call nnn)) ∧ s.sp.val = 16) ∧
    (t.fault = 2 ↔ decodeWord s.wordAtPc = some .ret ∧ s.sp.val = 0) ∧
    t.fault ≠ 3 ∧
    (t.fault ≠ 0 → t = { s with keys := s.keysSample, keysIn := s.keysIn.advance, beep := false,
                                renderNotify := false, pc := s.pc + 2, fault := t.fault })

/-- Both timers count down by one in every completed cycle, to a floor of 0, whatever instruction runs; a timer that
the cycle's instruction sets is counted down from the value set; and `beep` is the count of `ST` from 1 to 0
(10_state.md R28, R35; 44_keypad_timers.md R144, R145; 70_reset_and_hazards.md R187; decisions D17 and D23, log entry
25). -/
def Obligations.TimersTickOncePerCycle : Prop :=
  ∀ s t : State, s.fault = 0 → step s = .next t → t.fault = 0 →
    (∀ x, decodeWord s.wordAtPc = some (.ldDtVx x) → t.dt.toNat = (s.reg x).toNat - 1) ∧
    ((∀ x, decodeWord s.wordAtPc ≠ some (.ldDtVx x)) → t.dt.toNat = s.dt.toNat - 1) ∧
    (∀ x, decodeWord s.wordAtPc = some (.ldStVx x) →
      t.st.toNat = (s.reg x).toNat - 1 ∧ (t.beep = true ↔ (s.reg x).toNat = 1)) ∧
    ((∀ x, decodeWord s.wordAtPc ≠ some (.ldStVx x)) →
      t.st.toNat = s.st.toNat - 1 ∧ (t.beep = true ↔ s.st.toNat = 1))

/-- `render_notify` is raised in exactly the cycles that execute `CLS` or `DRW`, `dirty` is 0 at the boundary, and in
every other cycle the display buffer stays as it was (10_state.md R23, R24, R29, R36; 43_display.md R133; decision
D24, log entry 25). -/
def Obligations.RenderNotifyFollowsClearAndDraw : Prop :=
  ∀ s t : State, s.fault = 0 → s.dirty = false → step s = .next t →
    t.dirty = false ∧
    (t.renderNotify = true ↔ ∃ i, decodeWord s.wordAtPc = some i ∧ i.draws = true) ∧
    (t.renderNotify = false → ∀ p < 2048, t.pixel p = s.pixel p)

/-- After a cycle `keys` is the snapshot the host supplied for it, all sixteen keys at once, and exactly one snapshot
is used up: the oldest one the host has fixed, or else a free value (10_state.md R22, R26, R33; log entry 1). -/
def Obligations.KeysAreTheHostsSnapshot : Prop :=
  ∀ s t : State, s.fault = 0 → step s = .next t →
    (∀ k ks, s.keysIn.pending = k :: ks → t.keys = k ∧ t.keysIn = ⟨ks, s.keysIn.taken + 1⟩) ∧
    (s.keysIn.pending = [] → t.keys = Config.freeKeys s.keysIn.taken ∧ t.keysIn = ⟨[], s.keysIn.taken + 1⟩)

/-- The fetch takes its two bytes from `pc` and `pc + 1`, each modulo 4096, whatever the parity and the upper bits of
`pc`: two values of `pc` that agree modulo 4096 fetch the same word (10_state.md R13; 20_memory.md R44, R47; decisions
D6 and D7, log entry 23). -/
def Obligations.FetchUsesTheLowTwelveBitsOfPc : Prop :=
  ∀ (s : State) (u : Word), u.toNat % 4096 = s.pc.toNat % 4096 →
    (s.setPc u).fetch = s.fetch ∧ s.fetch = s.wordAtPc ∧
    s.wordAtPc.toNat / 256 = (s.readByte (s.pc.toNat % 4096)).toNat ∧
    s.wordAtPc.toNat % 256 = (s.readByte ((s.pc.toNat + 1) % 4096)).toNat

/-! ### Reset -/

/-- The state after reset holds the values of 10_state.md R37 (most of them the spec's decisions D3, D4, D18 and D20,
log entries 3, 5, 6 and 8): `pc` at 0x200, the display off, the font at 0x000, everything else 0, no sample taken. -/
def Obligations.ResetHoldsTheListedValues : Prop :=
  State.reset.pc = 0x0200 ∧ (∀ p < 2048, State.reset.pixel p = false) ∧
  (∀ a (h : a < 80), State.reset.readByte a = State.reset.cfg.font[a]) ∧
  (∀ a, 80 ≤ a → a < 4096 → State.reset.readByte a = 0) ∧
  (∀ x, State.reset.reg x = 0) ∧ State.reset.i = 0 ∧ State.reset.sp = 0 ∧
  (∀ k : Fin 16, State.reset.stack[k] = 0) ∧ State.reset.dt = 0 ∧ State.reset.st = 0 ∧ State.reset.keys = 0 ∧
  State.reset.dirty = false ∧ State.reset.fault = 0 ∧ State.reset.beep = false ∧ State.reset.renderNotify = false ∧
  State.reset.keysIn = ⟨[], 0⟩ ∧ State.reset.rndIn = ⟨[], 0⟩ ∧ State.reset.cfg = Config.default

/-- Reset with arguments: the program stands byte for byte from 0x200, `FONT` from 0x000, 0x00 elsewhere, everything
else is as after the plain reset, and exactly the images longer than 3584 bytes are refused (10_state.md R31, R37;
70_reset_and_hazards.md R183, R184; decisions D4 and D20, log entry 4). -/
def Obligations.BootLoadsFontAndProgram : Prop :=
  ∀ (cfg : Config) (rom : List Byte),
    (State.boot cfg rom = none ↔ 3584 < rom.length) ∧
    ∀ s, State.boot cfg rom = some s →
      (∀ k (h : k < rom.length), s.readByte (0x200 + k) = rom[k]) ∧
      (∀ a (h : a < 80), s.readByte a = cfg.font[a]) ∧
      (∀ a, 80 ≤ a → a < 4096 → (a < 0x200 ∨ 0x200 + rom.length ≤ a) → s.readByte a = 0) ∧
      s = { State.reset with mem := s.mem, cfg := cfg }

/-- Reset asserted in any state, a halted one too, gives the booted state whatever the state was before; only the host's
two input ports go on where they were; and the next step runs an instruction again (70_reset_and_hazards.md R180,
decision D4; 60_exceptions.md R155; log entries 1, 4, 8 and 27). -/
def Obligations.ResetClearsAHaltedMachine : Prop :=
  ∀ (s : State) (cfg : Config) (rom : List Byte), rom.length ≤ 3584 →
    ∃ b t : State, State.boot cfg rom = some b ∧ s.assertReset cfg rom = some t ∧
      t = { b with keysIn := s.keysIn, rndIn := s.rndIn } ∧ t.fault = 0 ∧ t.pc = 0x0200 ∧ t.Legal ∧
      ∃ u, step t = .next u ∧ u.keys = s.keysSample ∧ u.keysIn = s.keysIn.advance

/-! ### Invariants -/

/-- Every step from a legal state gives a legal state: `I` stays below 4096, memory stays canonical, the font region
keeps `FONT` under the policy `ignore`, `dirty` is 0 at the boundary, the code 3 is never produced, a halted machine
shows no pulse (10_state.md R15, R24, R38; 20_memory.md R46; 60_exceptions.md R152 to R154; decisions D6, D8 and D18,
log entries 5, 6, 10, 11, 12 and 24). -/
def Obligations.LegalStatesStayLegal : Prop :=
  ∀ s t : State, s.Legal → step s = .next t → t.Legal

/-- The state after reset is legal (the reset values are decision D4, log entries 3, 4 and 8). -/
def Obligations.ResetIsLegal : Prop := State.reset.Legal

/-- Every state a booted machine starts in is legal, whatever the font, the policy and the program (the reset values are
decision D4, log entries 3, 4 and 8). -/
def Obligations.BootIsLegal : Prop :=
  ∀ (cfg : Config) (rom : List Byte) (s : State), State.boot cfg rom = some s → s.Legal

/-! ### Whole-machine rules -/

/-- Every instruction, in every state, answers a next state; it raises `FAULT` only as 60_exceptions.md R150 says, and
never changes the parameters, the keypad register, the keypad port or an output pulse (10_state.md R22, R25, R28, R29;
60_exceptions.md R151, R156; the codes are decision D18, log entry 6). -/
def Obligations.InstructionsCompleteAndRaiseOnlyStackFaults : Prop :=
  ∀ (i : Instr) (s : State), ∃ t, exec i s = .next t ∧
    ((∃ nnn, i = .call nnn) ∧ s.sp.val = 16 → t.fault = 1) ∧
    (i = .ret ∧ s.sp.val = 0 → t.fault = 2) ∧
    (¬ ((∃ nnn, i = .call nnn) ∧ s.sp.val = 16) → ¬ (i = .ret ∧ s.sp.val = 0) → t.fault = s.fault) ∧
    t.cfg = s.cfg ∧ t.keys = s.keys ∧ t.keysIn = s.keysIn ∧ t.beep = s.beep ∧ t.renderNotify = s.renderNotify

/-- A general register is changed only by an instruction whose "writes" column names it (10_state.md R11). -/
def Obligations.GeneralRegistersChangeOnlyAsTabled : Prop :=
  ∀ (i : Instr) (s t : State) (r : Reg), exec i s = .next t → i.writesReg s r = false → t.reg r = s.reg r

/-- Each of the six flag-writing instructions leaves VF at 0 or 1, whatever its operands (10_state.md R12; with
`x = 15` it is decision D10, log entry 18). -/
def Obligations.FlagWritersLeaveZeroOrOne : Prop :=
  ∀ (i : Instr) (s t : State), i.writesFlag = true → exec i s = .next t → t.reg 15 = 0 ∨ t.reg 15 = 1

/-- Every other kind of state is changed only by the instructions the spec names for it: `pc` (R14), the call stack
(R16, R17), `I` (R15), the display (R23, R24), the timers (R18, R19), the random source (R27). -/
def Obligations.EachKindOfStateHasItsWriters : Prop :=
  ∀ (i : Instr) (s t : State), exec i s = .next t →
    (i.transfersControl = false → t.pc = s.pc) ∧
    (i.usesStack = false → t.sp = s.sp ∧ ∀ k : Fin 16, t.stack[k] = s.stack[k]) ∧
    (i.writesIndex = false → t.i = s.i) ∧
    (i.draws = false → (∀ p < 2048, t.pixel p = s.pixel p) ∧ t.dirty = s.dirty) ∧
    ((∀ x, i ≠ .ldDtVx x) → t.dt = s.dt) ∧
    ((∀ x, i ≠ .ldStVx x) → t.st = s.st) ∧
    ((∀ x nn, i ≠ .rnd x nn) → t.rndIn = s.rndIn)

/-- Memory is changed only by `LD B, Vx` and `LD [I], Vx`, and only in the bytes they store from `I` up, which wrap
modulo 4096 one by one; under the policy `ignore` no byte of the font region changes (20_memory.md R42, R43, R46;
decisions D6 and D8, log entries 23 and 24). -/
def Obligations.MemoryChangesOnlyInTheStoredBytes : Prop :=
  ∀ (i : Instr) (s t : State), exec i s = .next t →
    s.SameMemoryOutside t s.i.toNat i.storedBytes ∧
    (s.cfg.fontWritePolicy = .ignore → ∀ a, a % 4096 < 80 → t.readByte a = s.readByte a)

/-! ### Memory -/

/-- A load returns the latest store to its byte, addresses modulo 4096; a store into 0x000 to 0x04F is dropped under
the policy `ignore` and performed under `allow` (20_memory.md R43, R46, R50; decisions D6 and D8, log entries 23 and
24). -/
def Obligations.LoadReturnsTheLatestStore : Prop :=
  ∀ (s : State) (a b : Nat) (u : Byte),
    (s.cfg.fontWritePolicy = .allow ∨ 80 ≤ a % 4096 →
      (s.writeByte a u).readByte b = if b % 4096 = a % 4096 then u else s.readByte b) ∧
    (s.cfg.fontWritePolicy = .ignore → a % 4096 < 80 → s.writeByte a u = s)

/-- A two-byte store of an instruction's bytes is seen by the very next fetch, at any `pc` outside the font region,
with no synchronising step: the fetched word decodes to that instruction (20_memory.md R52; 70_reset_and_hazards.md
R186; the byte order is decision D1, the stores it leaves out D8: log entries 16 and 24; which terms are well-formed is the
model's choice, log entry 26). -/
def Obligations.StoresAreSeenByTheNextFetch : Prop :=
  ∀ (s : State) (i : Instr) (hi lo : Byte), i.wellFormed = true → encodeBytes i = [hi, lo] →
    80 ≤ s.pc.toNat % 4096 → s.pc.toNat % 4096 < 4095 →
    decodeWord ((s.writeByte s.pc.toNat hi).writeByte (s.pc.toNat + 1) lo).fetch = some i

/-! ### Control flow -/

/-- `JP nnn`: encoded 1nnn, sets `pc` to `nnn` and changes nothing else (40_flow_control.md R81). -/
def Obligations.JumpSetsPc : Prop :=
  ∀ (s : State) (nnn : BitVec 12), decodeWord (0x1#4 ++ nnn) = some (.jp nnn) ∧
    ∃ t, exec (.jp nnn) s = .next t ∧ t.pc.toNat = nnn.toNat ∧ t = { s with pc := t.pc } ∧ s.SameMemory t

/-- `CALL nnn`: encoded 2nnn; below 16 live entries it pushes the advanced `pc`, whole, and jumps; at 16 it raises
`StackOverflow` and changes nothing but `FAULT` (40_flow_control.md R82; the code 1 is decision D18, log entry 6). -/
def Obligations.CallPushesTheReturnAddress : Prop :=
  ∀ (s : State) (nnn : BitVec 12), decodeWord (0x2#4 ++ nnn) = some (.call nnn) ∧
    (s.sp.val ≠ 16 → ∃ t, exec (.call nnn) s = .next t ∧ t.pc.toNat = nnn.toNat ∧ t.sp.val = s.sp.val + 1 ∧
      (∀ k : Fin 16, t.stack[k] = if k.val = s.sp.val then s.pc else s.stack[k]) ∧
      t = { s with pc := t.pc, sp := t.sp, stack := t.stack } ∧ s.SameMemory t) ∧
    (s.sp.val = 16 → exec (.call nnn) s = .next { s with fault := 1 })

/-- `RET`: the word 0x00EE; above 0 live entries it pops the entry `stack[SP - 1]`, whole, into `pc`; at 0 it raises
`StackUnderflow` and changes nothing but `FAULT` (40_flow_control.md R80; the code 2 is decision D18, log entry 6). -/
def Obligations.ReturnPopsIntoPc : Prop :=
  ∀ s : State, decodeWord 0x00EE = some .ret ∧
    (s.sp.val ≠ 0 → ∃ t, exec .ret s = .next t ∧ t.sp.val + 1 = s.sp.val ∧
      (∀ k : Fin 16, k.val + 1 = s.sp.val → t.pc = s.stack[k]) ∧
      t = { s with pc := t.pc, sp := t.sp } ∧ s.SameMemory t) ∧
    (s.sp.val = 0 → exec .ret s = .next { s with fault := 2 })

/-- The four register skips: encoded 3xnn, 4xnn, 5xy0, 9xy0; `pc` moves 2 more, modulo 65536, exactly when the
condition holds, and nothing else changes (40_flow_control.md R83, R84, R85, R86). -/
def Obligations.SkipsStepOverOneInstruction : Prop :=
  ∀ (s : State) (x y : Reg) (nn : Byte),
    decodeWord (0x3#4 ++ (BitVec.ofNat 4 x ++ nn)) = some (.seImm x nn) ∧
    decodeWord (0x4#4 ++ (BitVec.ofNat 4 x ++ nn)) = some (.sneImm x nn) ∧
    decodeWord (0x5#4 ++ (BitVec.ofNat 4 x ++ (BitVec.ofNat 4 y ++ 0#4))) = some (.seReg x y) ∧
    decodeWord (0x9#4 ++ (BitVec.ofNat 4 x ++ (BitVec.ofNat 4 y ++ 0#4))) = some (.sneReg x y) ∧
    ∃ skipped : State, skipped = { s with pc := skipped.pc } ∧
      skipped.pc.toNat = (s.pc.toNat + 2) % 65536 ∧
      exec (.seImm x nn) s = .next (if s.reg x = nn then skipped else s) ∧
      exec (.sneImm x nn) s = .next (if s.reg x = nn then s else skipped) ∧
      exec (.seReg x y) s = .next (if s.reg x = s.reg y then skipped else s) ∧
      exec (.sneReg x y) s = .next (if s.reg x = s.reg y then s else skipped)

/-- `JP V0, nnn`: `pc` becomes the sum of `nnn` and V0, not reduced modulo 4096 (40_flow_control.md R87; decision D27,
log entry 23), and nothing else changes. -/
def Obligations.JumpWithOffsetAddsV0 : Prop :=
  ∀ (s : State) (nnn : BitVec 12),
    ∃ t, exec (.jpV0 nnn) s = .next t ∧ t.pc.toNat = nnn.toNat + (s.reg 0).toNat ∧
      t = { s with pc := t.pc } ∧ s.SameMemory t

/-- `SYS nnn` changes nothing beyond the advance of the fetch; with every word that matches no row, the whole cycle
changes `pc` (by 2), the keys, the timers and the pulses only (40_flow_control.md R88; 30_encoding.md R67; decisions
D9 and D22, log entry 7). -/
def Obligations.UnrecognizedWordsAreNoOperations : Prop :=
  (∀ (s : State) (nnn : BitVec 12), exec (.sys nnn) s = .next s) ∧
  ∀ s : State, s.fault = 0 →
    (decodeWord s.wordAtPc = none ∨ ∃ nnn, decodeWord s.wordAtPc = some (.sys nnn)) →
    ∃ t, step s = .next t ∧ t.pc.toNat = (s.pc.toNat + 2) % 65536 ∧
      t.dt.toNat = s.dt.toNat - 1 ∧ t.st.toNat = s.st.toNat - 1 ∧ (t.beep = true ↔ s.st.toNat = 1) ∧
      t.renderNotify = s.dirty ∧ t.dirty = false ∧ t.keys = s.keysSample ∧
      t = { s with pc := t.pc, dt := t.dt, st := t.st, beep := t.beep, renderNotify := t.renderNotify,
                   dirty := t.dirty, keys := t.keys, keysIn := s.keysIn.advance }

/-- A `CALL` whose target holds a `RET`, in two cycles: `pc` is at the instruction after the call, `SP` has its value
from before, and no general register, `I`, memory or pixel has changed (40_flow_control.md R80, R82; the document's
testable property, 95_test_vectors.md E2). -/
def Obligations.CallThenReturnComesBack : Prop :=
  ∀ (s : State) (nnn : BitVec 12), s.fault = 0 → s.sp.val < 16 →
    decodeWord s.wordAtPc = some (.call nnn) → (s.setPc (nnn.setWidth 16)).wordAtPc = 0x00EE →
    ∃ t, Sys2Proof.core.run 2 s = .next t ∧ t.fault = 0 ∧ t.pc.toNat = (s.pc.toNat + 2) % 65536 ∧ t.sp = s.sp ∧
      (∀ r, t.reg r = s.reg r) ∧ t.i = s.i ∧ s.SameMemory t ∧ ∀ p < 2048, t.pixel p = s.pixel p

/-- The idle loop: where the word at `pc = a` is `JP a`, a cycle leaves `pc`, the registers, `I`, the stack, memory and
the display as they were, so that the machine is idle again (70_reset_and_hazards.md R192; decision D25, the spec's own
convention). -/
def Obligations.IdleLoopChangesOnlyKeysAndTimers : Prop :=
  ∀ s : State, s.fault = 0 → s.dirty = false → s.pc.toNat < 4096 → s.wordAtPc.toNat = 0x1000 + s.pc.toNat →
    ∃ t, step s = .next t ∧
      t.dt.toNat = s.dt.toNat - 1 ∧ t.st.toNat = s.st.toNat - 1 ∧ (t.beep = true ↔ s.st.toNat = 1) ∧
      t = { s with keys := t.keys, keysIn := s.keysIn.advance, dt := t.dt, st := t.st, beep := t.beep,
                   renderNotify := false }

/-! ### Register load, arithmetic, logic, random -/

/-- `LD Vx, nn`, encoded 6xnn, and `LD Vx, Vy`, encoded 8xy0: the register gets the value, every other register and
everything else stays (41_register_alu.md R101, R103). -/
def Obligations.LoadAndCopySetOneRegister : Prop :=
  ∀ (s : State) (x y : Reg) (nn : Byte),
    decodeWord (0x6#4 ++ (BitVec.ofNat 4 x ++ nn)) = some (.ldImm x nn) ∧
    decodeWord (0x8#4 ++ (BitVec.ofNat 4 x ++ (BitVec.ofNat 4 y ++ 0x0#4))) = some (.ldReg x y) ∧
    (∃ t, exec (.ldImm x nn) s = .next t ∧ (∀ r, t.reg r = if r = x then nn else s.reg r) ∧
      t = { s with v := t.v } ∧ s.SameMemory t) ∧
    ∃ t, exec (.ldReg x y) s = .next t ∧ (∀ r, t.reg r = if r = x then s.reg y else s.reg r) ∧
      t = { s with v := t.v } ∧ s.SameMemory t

/-- `ADD Vx, nn`, encoded 7xnn: the sum modulo 256 into `Vx`; no flag: VF is touched only as `Vx`
(41_register_alu.md R102). -/
def Obligations.AddImmediateWrapsWithoutAFlag : Prop :=
  ∀ (s : State) (x : Reg) (nn : Byte),
    decodeWord (0x7#4 ++ (BitVec.ofNat 4 x ++ nn)) = some (.addImm x nn) ∧
    ∃ t, exec (.addImm x nn) s = .next t ∧ (t.reg x).toNat = ((s.reg x).toNat + nn.toNat) % 256 ∧
      (∀ r, r ≠ x → t.reg r = s.reg r) ∧ t = { s with v := t.v } ∧ s.SameMemory t

/-- `OR`, `AND`, `XOR`: bit by bit into `Vx`, every other register as it was, VF among them (41_register_alu.md R104,
R105, R106; decision D12, log entry 24). -/
def Obligations.LogicActsBitByBit : Prop :=
  ∀ (s : State) (x y : Reg),
    (∃ t, exec (.orReg x y) s = .next t ∧
      (∀ k < 8, (t.reg x).getLsbD k = ((s.reg x).getLsbD k || (s.reg y).getLsbD k)) ∧
      (∀ r, r ≠ x → t.reg r = s.reg r) ∧ t = { s with v := t.v } ∧ s.SameMemory t) ∧
    (∃ t, exec (.andReg x y) s = .next t ∧
      (∀ k < 8, (t.reg x).getLsbD k = ((s.reg x).getLsbD k && (s.reg y).getLsbD k)) ∧
      (∀ r, r ≠ x → t.reg r = s.reg r) ∧ t = { s with v := t.v } ∧ s.SameMemory t) ∧
    (∃ t, exec (.xorReg x y) s = .next t ∧
      (∀ k < 8, (t.reg x).getLsbD k = ((s.reg x).getLsbD k != (s.reg y).getLsbD k)) ∧
      (∀ r, r ≠ x → t.reg r = s.reg r) ∧ t = { s with v := t.v } ∧ s.SameMemory t)

/-- `ADD Vx, Vy`, `SUB`, `SUBN`: the result modulo 256 into `Vx` and the carry or no-borrow into VF; with `x = 15` the
flag survives and the result is lost; every other register and everything else stays (41_register_alu.md R100, R107,
R108, R110; decisions D10 and D13, log entries 18 and 24). -/
def Obligations.AddAndSubtractReportInVF : Prop :=
  ∀ (s : State) (x y : Reg),
    (∃ t, exec (.addReg x y) s = .next t ∧
      (x ≠ 15 → (t.reg x).toNat = ((s.reg x).toNat + (s.reg y).toNat) % 256) ∧
      (t.reg 15).toNat = ((s.reg x).toNat + (s.reg y).toNat) / 256 ∧
      (∀ r, r ≠ x → r ≠ 15 → t.reg r = s.reg r) ∧ t = { s with v := t.v } ∧ s.SameMemory t) ∧
    (∃ t, exec (.subReg x y) s = .next t ∧
      (x ≠ 15 → ((t.reg x).toNat : Int) = ((s.reg x).toNat - (s.reg y).toNat : Int) % 256) ∧
      (t.reg 15).toNat = (if (s.reg y).toNat ≤ (s.reg x).toNat then 1 else 0) ∧
      (∀ r, r ≠ x → r ≠ 15 → t.reg r = s.reg r) ∧ t = { s with v := t.v } ∧ s.SameMemory t) ∧
    (∃ t, exec (.subnReg x y) s = .next t ∧
      (x ≠ 15 → ((t.reg x).toNat : Int) = ((s.reg y).toNat - (s.reg x).toNat : Int) % 256) ∧
      (t.reg 15).toNat = (if (s.reg x).toNat ≤ (s.reg y).toNat then 1 else 0) ∧
      (∀ r, r ≠ x → r ≠ 15 → t.reg r = s.reg r) ∧ t = { s with v := t.v } ∧ s.SameMemory t)

/-- `SHR Vx` and `SHL Vx`: `Vx` shifted in place by one, the bit shifted out into VF, whatever `y` is; with `x = 15`
the flag survives (41_register_alu.md R100, R109, R111; decisions D10 and D11, log entries 18 and 19). -/
def Obligations.ShiftsMoveOneBitIntoVF : Prop :=
  ∀ (s : State) (x y : Reg),
    (∃ t, exec (.shr x y) s = .next t ∧
      (x ≠ 15 → (t.reg x).toNat = (s.reg x).toNat / 2) ∧ (t.reg 15).toNat = (s.reg x).toNat % 2 ∧
      (∀ r, r ≠ x → r ≠ 15 → t.reg r = s.reg r) ∧ t = { s with v := t.v } ∧ s.SameMemory t) ∧
    (∃ t, exec (.shl x y) s = .next t ∧
      (x ≠ 15 → (t.reg x).toNat = (s.reg x).toNat * 2 % 256) ∧ (t.reg 15).toNat = (s.reg x).toNat / 128 ∧
      (∀ r, r ≠ x → r ≠ 15 → t.reg r = s.reg r) ∧ t = { s with v := t.v } ∧ s.SameMemory t)

/-- `RND Vx, nn`: one draw of `rnd_in` under the mask; the draw is the oldest one the host has fixed, or else a free
value; no bit that `nn` lacks is ever set (41_register_alu.md R112; 10_state.md R27; decision D19, log entries 1 and
2). -/
def Obligations.RandomIsOneDrawUnderTheMask : Prop :=
  ∀ (s : State) (x : Reg) (nn : Byte),
    ∃ (t : State) (draw : Byte), exec (.rnd x nn) s = .next t ∧
      (∀ u us, s.rndIn.pending = u :: us → draw = u ∧ t.rndIn = ⟨us, s.rndIn.taken + 1⟩) ∧
      (s.rndIn.pending = [] → draw = Config.freeRnd s.rndIn.taken ∧ t.rndIn = ⟨[], s.rndIn.taken + 1⟩) ∧
      (∀ k < 8, (t.reg x).getLsbD k = (draw.getLsbD k && nn.getLsbD k)) ∧
      (∀ r, r ≠ x → t.reg r = s.reg r) ∧ t = { s with v := t.v, rndIn := t.rndIn } ∧ s.SameMemory t

/-! ### Index register and memory -/

/-- `LD I, nnn`, encoded Annn: `I` becomes `nnn`, and nothing else changes (42_index_memory.md R120). -/
def Obligations.LoadIndexSetsI : Prop :=
  ∀ (s : State) (nnn : BitVec 12), decodeWord (0xA#4 ++ nnn) = some (.ldI nnn) ∧
    ∃ t, exec (.ldI nnn) s = .next t ∧ t.i.toNat = nnn.toNat ∧ t = { s with i := t.i } ∧ s.SameMemory t

/-- `ADD I, Vx` adds modulo 4096 and `LD F, Vx` takes five times the whole register; VF and everything else stay
(42_index_memory.md R121, R122; decisions D12 and D26, log entry 24). -/
def Obligations.IndexArithmeticStaysInTwelveBits : Prop :=
  ∀ (s : State) (x : Reg),
    (∃ t, exec (.addI x) s = .next t ∧ t.i.toNat = (s.i.toNat + (s.reg x).toNat) % 4096 ∧
      t = { s with i := t.i } ∧ s.SameMemory t) ∧
    (∃ t, exec (.ldF x) s = .next t ∧ t.i.toNat = (s.reg x).toNat * 5 ∧ t.i.toNat < 4096 ∧
      t = { s with i := t.i } ∧ s.SameMemory t)

/-- `LD B, Vx`: the three decimal digits at `I`, `I + 1`, `I + 2`, each address modulo 4096; a digit whose address
falls in the font region is dropped under the policy `ignore` while the others are stored; every other byte, `I` and
everything else stay (42_index_memory.md R123; 20_memory.md R43, R46; decisions D6 and D8, log entries 23 and 24). -/
def Obligations.DecimalDigitsAreStoredAtI : Prop :=
  ∀ (s : State) (x : Reg),
    ∃ t, exec (.ldB x) s = .next t ∧
      (∀ k < 3, s.drops (s.i.toNat + k) = false → (t.readByte (s.i.toNat + k)).toNat < 10) ∧
      (s.drops s.i.toNat = false → s.drops (s.i.toNat + 1) = false → s.drops (s.i.toNat + 2) = false →
        (t.readByte s.i.toNat).toNat * 100 + (t.readByte (s.i.toNat + 1)).toNat * 10 +
          (t.readByte (s.i.toNat + 2)).toNat = (s.reg x).toNat) ∧
      (s.drops s.i.toNat = false → (t.readByte s.i.toNat).toNat = (s.reg x).toNat / 100) ∧
      (s.drops (s.i.toNat + 1) = false → (t.readByte (s.i.toNat + 1)).toNat = (s.reg x).toNat / 10 % 10) ∧
      (s.drops (s.i.toNat + 2) = false → (t.readByte (s.i.toNat + 2)).toNat = (s.reg x).toNat % 10) ∧
      (∀ k < 3, s.drops (s.i.toNat + k) = true → t.readByte (s.i.toNat + k) = s.readByte (s.i.toNat + k)) ∧
      s.SameMemoryOutside t s.i.toNat 3 ∧ t = { s with mem := t.mem }

/-- `LD [I], Vx`: register `k` at `(I + k) mod 4096` for `k` from 0 to `x`, but for the bytes the policy `ignore`
drops; `I` advances by `x + 1` modulo 4096; every other byte and everything else stay (42_index_memory.md R124;
20_memory.md R43, R46; decisions D6 and D8, log entries 23 and 24). -/
def Obligations.BlockStoreWritesV0ToVx : Prop :=
  ∀ (s : State) (x : Reg),
    ∃ t, exec (.storeRegs x) s = .next t ∧
      (∀ k : Reg, k ≤ x → t.readByte (s.i.toNat + k.val) =
        if s.drops (s.i.toNat + k.val) = true then s.readByte (s.i.toNat + k.val) else s.reg k) ∧
      t.i.toNat = (s.i.toNat + x.val + 1) % 4096 ∧
      s.SameMemoryOutside t s.i.toNat (x.val + 1) ∧ t = { s with mem := t.mem, i := t.i }

/-- `LD Vx, [I]`: register `k` gets the byte at `(I + k) mod 4096` for `k` from 0 to `x`, the registers above `x` stay;
`I` advances by `x + 1` modulo 4096; memory and everything else stay (42_index_memory.md R125; 20_memory.md R43;
decision D6, log entry 23). -/
def Obligations.BlockLoadFillsV0ToVx : Prop :=
  ∀ (s : State) (x : Reg),
    ∃ t, exec (.loadRegs x) s = .next t ∧
      (∀ k : Reg, t.reg k = if k ≤ x then s.readByte (s.i.toNat + k.val) else s.reg k) ∧
      t.i.toNat = (s.i.toNat + x.val + 1) % 4096 ∧ t = { s with v := t.v, i := t.i } ∧ s.SameMemory t

/-- Storing V0 to `Vx` and loading them back from the same `I` gives every register its value, where no byte falls in
the font region (42_index_memory.md R124, R125; 20_memory.md R50). -/
def Obligations.BlockStoreThenLoadRestores : Prop :=
  ∀ (s t : State) (x : Reg), (∀ k ≤ x.val, s.drops (s.i.toNat + k) = false) → exec (.storeRegs x) s = .next t →
    ∀ w : State, w.mem = t.mem → w.cfg = t.cfg → w.i = s.i →
      ∃ u, exec (.loadRegs x) w = .next u ∧ u.i = t.i ∧ (∀ k : Reg, k ≤ x → u.reg k = s.reg k)

/-! ### Display -/

/-- `CLS`: the word 0x00E0; every pixel off, `dirty` set, whether or not any pixel was on; nothing else changes; and the
render phase of the same cycle sees `dirty`, raises `render_notify` and clears it (43_display.md R130). -/
def Obligations.ClearTurnsEveryPixelOff : Prop :=
  ∀ s : State, decodeWord 0x00E0 = some .cls ∧
    (∃ t, exec .cls s = .next t ∧ (∀ p < 2048, t.pixel p = false) ∧ t.dirty = true ∧
      t = { s with fb := t.fb, dirty := t.dirty } ∧ s.SameMemory t) ∧
    (s.fault = 0 → decodeWord s.wordAtPc = some .cls →
      ∃ t, step s = .next t ∧ (∀ p < 2048, t.pixel p = false) ∧ t.renderNotify = true ∧ t.dirty = false)

/-- `DRW Vx, Vy, n`: a pixel is toggled exactly when some set bit of the sprite falls on it, VF is 1 exactly when some
set bit falls on a pixel that was on and else 0, `dirty` is set, and every other register, `I`, memory and everything
else stay (43_display.md R131, R132; the bit order is decision D2, the flattening D28, reading the coordinates before
VF is reset D16: log entries 15, 17 and 22). -/
def Obligations.DrawTogglesExactlyTheSpritePixels : Prop :=
  ∀ (s : State) (x y n : Fin 16),
    ∃ t, exec (.drw x y n) s = .next t ∧
      (∀ p < 2048, (t.pixel p ≠ s.pixel p ↔ ∃ r < n.val, ∃ c < 8,
        (s.readByte (s.i.toNat + r)).getLsbD (7 - c) = true ∧
        p = ((s.reg x).toNat + c + ((s.reg y).toNat + r) * 64) % 2048)) ∧
      (t.reg 15 = 1 ↔ ∃ r < n.val, ∃ c < 8, (s.readByte (s.i.toNat + r)).getLsbD (7 - c) = true ∧
        s.pixel (((s.reg x).toNat + c + ((s.reg y).toNat + r) * 64) % 2048) = true) ∧
      (t.reg 15 = 0 ∨ t.reg 15 = 1) ∧
      t.dirty = true ∧ (∀ r, r ≠ 15 → t.reg r = s.reg r) ∧
      t = { s with fb := t.fb, v := t.v, dirty := t.dirty } ∧ s.SameMemory t

/-- The identical sprite drawn a second time at the same place restores every pixel, and reports a collision exactly
when the sprite has a set bit; on an empty buffer the first draw reports none (43_display.md R132; the document's
testable property, 95_test_vectors.md E6). The coordinates are not in VF, which the first draw writes. -/
def Obligations.DrawingTwiceErases : Prop :=
  ∀ (s t u : State) (x y n : Fin 16), x ≠ 15 → y ≠ 15 →
    exec (.drw x y n) s = .next t → exec (.drw x y n) t = .next u →
    (∀ p < 2048, u.pixel p = s.pixel p) ∧
    ((∀ p < 2048, s.pixel p = false) → t.reg 15 = 0 ∧ (u.reg 15 = 0 ∨ u.reg 15 = 1) ∧
      (u.reg 15 = 1 ↔ ∃ r < n.val, s.readByte (s.i.toNat + r) ≠ 0))

/-! ### Keypad and timers -/

/-- `SKP Vx` and `SKNP Vx`: the key tested is the low four bits of `Vx` (decision D14, log entry 20); `pc` moves 2
more exactly when it is down, respectively up; nothing else changes (44_keypad_timers.md R140, R141). -/
def Obligations.KeySkipsTestTheSnapshot : Prop :=
  ∀ (s : State) (x : Reg),
    ∃ skipped : State, skipped = { s with pc := skipped.pc } ∧
      skipped.pc.toNat = (s.pc.toNat + 2) % 65536 ∧
      exec (.skp x) s = .next (if s.keys.getLsbD ((s.reg x).toNat % 16) = true then skipped else s) ∧
      exec (.sknp x) s = .next (if s.keys.getLsbD ((s.reg x).toNat % 16) = true then s else skipped)

/-- `LD Vx, K`: with no key down `pc` goes back by 2, to the instruction itself, and nothing else changes; else `Vx`
gets the least index of a key that is down (decision D15, log entry 21) and nothing else changes (44_keypad_timers.md
R142). -/
def Obligations.KeyWaitRepeatsOrTakesTheLeastKey : Prop :=
  ∀ (s : State) (x : Reg),
    (s.keys = 0 → ∃ t, exec (.ldVxK x) s = .next t ∧ (t.pc.toNat + 2) % 65536 = s.pc.toNat ∧
      t = { s with pc := t.pc } ∧ s.SameMemory t) ∧
    (∀ k < 16, s.keys.getLsbD k = true → (∀ j < k, s.keys.getLsbD j = false) →
      ∃ t, exec (.ldVxK x) s = .next t ∧ (t.reg x).toNat = k ∧ (∀ r, r ≠ x → t.reg r = s.reg r) ∧
        t = { s with v := t.v } ∧ s.SameMemory t)

/-- A whole cycle of `LD Vx, K` with no key down: `pc` is unchanged and only the keys, the timers and the pulses can
change, the timers counting down meanwhile (44_keypad_timers.md R142: "program counter unchanged across the pair of
cycles"). -/
def Obligations.WaitingCycleLeavesPcAndCountsTimers : Prop :=
  ∀ (s : State) (x : Reg), s.fault = 0 → s.dirty = false → decodeWord s.wordAtPc = some (.ldVxK x) →
    s.keysSample = 0 →
    ∃ t, step s = .next t ∧ t.pc = s.pc ∧ t.dt.toNat = s.dt.toNat - 1 ∧ t.st.toNat = s.st.toNat - 1 ∧
      (t.beep = true ↔ s.st.toNat = 1) ∧
      t = { s with keys := 0, keysIn := s.keysIn.advance, dt := t.dt, st := t.st, beep := t.beep,
                   renderNotify := false }

/-- `LD Vx, DT`, encoded Fx07, copies the delay timer; `LD DT, Vx`, encoded Fx15, and `LD ST, Vx`, encoded Fx18, set
the timers; nothing else changes in the instruction phase (44_keypad_timers.md R143, R144, R145). -/
def Obligations.TimerTransfersCopyWholeBytes : Prop :=
  ∀ (s : State) (x : Reg),
    decodeWord (0xF#4 ++ (BitVec.ofNat 4 x ++ 0x07#8)) = some (.ldVxDt x) ∧
    decodeWord (0xF#4 ++ (BitVec.ofNat 4 x ++ 0x15#8)) = some (.ldDtVx x) ∧
    decodeWord (0xF#4 ++ (BitVec.ofNat 4 x ++ 0x18#8)) = some (.ldStVx x) ∧
    (∃ t, exec (.ldVxDt x) s = .next t ∧ (∀ r, t.reg r = if r = x then s.dt else s.reg r) ∧
      t = { s with v := t.v } ∧ s.SameMemory t) ∧
    (∃ t, exec (.ldDtVx x) s = .next t ∧ t.dt = s.reg x ∧ t = { s with dt := t.dt } ∧ s.SameMemory t) ∧
    (∃ t, exec (.ldStVx x) s = .next t ∧ t.st = s.reg x ∧ t = { s with st := t.st } ∧ s.SameMemory t)
end

