-- ==== Sys2Proof/Laws/Decode.lean ====
section
/-! SUPPORT. The fields of a word, and the fields of the words the encoder builds (30_encoding.md R62, R63). -/

namespace Sys2Proof

/-- Concatenation as a sum. -/
theorem toNat_append_add {m n : Nat} (a : BitVec m) (b : BitVec n) : (a ++ b).toNat = a.toNat * 2 ^ n + b.toNat := by
  rw [BitVec.toNat_append, Nat.shiftLeft_eq, Nat.mul_comm, Nat.two_pow_add_eq_or_of_lt b.isLt]

/-! ### Fields as quotients and remainders -/

theorem fieldOp_toNat (w : Word) : (fieldOp w).toNat = w.toNat / 4096 := by
  have := w.isLt
  simp only [fieldOp, BitVec.extractLsb'_toNat, Nat.shiftRight_eq_div_pow]
  omega

theorem fieldX_val (w : Word) : (fieldX w).val = w.toNat / 256 % 16 := by
  simp only [fieldX, BitVec.extractLsb'_toNat, Nat.shiftRight_eq_div_pow]

theorem fieldY_val (w : Word) : (fieldY w).val = w.toNat / 16 % 16 := by
  simp only [fieldY, BitVec.extractLsb'_toNat, Nat.shiftRight_eq_div_pow]

theorem fieldN_val (w : Word) : (fieldN w).val = w.toNat % 16 := by
  simp only [fieldN, BitVec.extractLsb'_toNat, Nat.shiftRight_eq_div_pow]
  omega

theorem fieldNN_toNat (w : Word) : (fieldNN w).toNat = w.toNat % 256 := by
  simp only [fieldNN, BitVec.extractLsb'_toNat, Nat.shiftRight_eq_div_pow]
  omega

theorem fieldNNN_toNat (w : Word) : (fieldNNN w).toNat = w.toNat % 4096 := by
  simp only [fieldNNN, BitVec.extractLsb'_toNat, Nat.shiftRight_eq_div_pow]
  omega

/-! ### The words of the formats -/

theorem wordA_toNat (op : BitVec 4) (nnn : BitVec 12) : (wordA op nnn).toNat = op.toNat * 4096 + nnn.toNat :=
  toNat_append_add op nnn

theorem wordI_toNat (op : BitVec 4) (x : Fin 16) (nn : Byte) :
    (wordI op x nn).toNat = op.toNat * 4096 + (x.val * 256 + nn.toNat) := by
  show (op ++ (BitVec.ofNat 4 x ++ nn)).toNat = _
  rw [toNat_append_add, toNat_append_add, BitVec.toNat_ofNat, Nat.mod_eq_of_lt (show x.val < 2 ^ 4 from x.isLt)]
  rfl

theorem wordR_toNat (op : BitVec 4) (x y : Fin 16) (n : BitVec 4) :
    (wordR op x y n).toNat = op.toNat * 4096 + (x.val * 256 + (y.val * 16 + n.toNat)) := by
  show (op ++ (BitVec.ofNat 4 x ++ (BitVec.ofNat 4 y ++ n))).toNat = _
  rw [toNat_append_add, toNat_append_add, toNat_append_add, BitVec.toNat_ofNat, BitVec.toNat_ofNat,
    Nat.mod_eq_of_lt (show x.val < 2 ^ 4 from x.isLt), Nat.mod_eq_of_lt (show y.val < 2 ^ 4 from y.isLt)]
  rfl

@[simp] theorem fieldOp_wordA (op : BitVec 4) (nnn : BitVec 12) : fieldOp (wordA op nnn) = op := by
  apply BitVec.eq_of_toNat_eq
  rw [fieldOp_toNat, wordA_toNat]
  have := nnn.isLt
  omega

@[simp] theorem fieldNNN_wordA (op : BitVec 4) (nnn : BitVec 12) : fieldNNN (wordA op nnn) = nnn := by
  apply BitVec.eq_of_toNat_eq
  rw [fieldNNN_toNat, wordA_toNat]
  have := nnn.isLt
  omega

@[simp] theorem fieldOp_wordI (op : BitVec 4) (x : Fin 16) (nn : Byte) : fieldOp (wordI op x nn) = op := by
  apply BitVec.eq_of_toNat_eq
  rw [fieldOp_toNat, wordI_toNat]
  have := nn.isLt
  omega

@[simp] theorem fieldX_wordI (op : BitVec 4) (x : Fin 16) (nn : Byte) : fieldX (wordI op x nn) = x := by
  apply Fin.ext
  rw [fieldX_val, wordI_toNat]
  have := nn.isLt
  omega

@[simp] theorem fieldNN_wordI (op : BitVec 4) (x : Fin 16) (nn : Byte) : fieldNN (wordI op x nn) = nn := by
  apply BitVec.eq_of_toNat_eq
  rw [fieldNN_toNat, wordI_toNat]
  have := nn.isLt
  omega

@[simp] theorem fieldOp_wordR (op : BitVec 4) (x y : Fin 16) (n : BitVec 4) : fieldOp (wordR op x y n) = op := by
  apply BitVec.eq_of_toNat_eq
  rw [fieldOp_toNat, wordR_toNat]
  have := n.isLt
  omega

@[simp] theorem fieldX_wordR (op : BitVec 4) (x y : Fin 16) (n : BitVec 4) : fieldX (wordR op x y n) = x := by
  apply Fin.ext
  rw [fieldX_val, wordR_toNat]
  have := n.isLt
  omega

@[simp] theorem fieldY_wordR (op : BitVec 4) (x y : Fin 16) (n : BitVec 4) : fieldY (wordR op x y n) = y := by
  apply Fin.ext
  rw [fieldY_val, wordR_toNat]
  have := n.isLt
  omega

@[simp] theorem fieldN_wordR (op : BitVec 4) (x y : Fin 16) (n : BitVec 4) :
    (fieldN (wordR op x y n)).val = n.toNat := by
  rw [fieldN_val, wordR_toNat]
  have := n.isLt
  omega

/-! ### Words and bytes -/

theorem wordOfBytes_toNat (hi lo : Byte) : (wordOfBytes hi lo).toNat = hi.toNat * 256 + lo.toNat :=
  toNat_append_add hi lo

theorem wordOfBytes_eq (hi lo : Byte) : wordOfBytes hi lo = BitVec.ofNat 16 (hi.toNat * 256 + lo.toNat) := by
  apply BitVec.eq_of_toNat_eq
  rw [wordOfBytes_toNat, BitVec.toNat_ofNat]
  have := hi.isLt
  have := lo.isLt
  omega

/-- The bytes of a word, put together again, are the word. -/
theorem wordOfBytes_bytes (w : Word) : wordOfBytes (w.extractLsb' 8 8) (w.extractLsb' 0 8) = w := by
  apply BitVec.eq_of_toNat_eq
  rw [wordOfBytes_toNat]
  have := w.isLt
  simp only [BitVec.extractLsb'_toNat, Nat.shiftRight_eq_div_pow]
  omega

end Sys2Proof
end

