-- ==== Sys2Proof/Laws/State.lean ====
section
/-! SUPPORT. One lemma per field per update of State, true by rfl, so that no proof unfolds a record update. -/

namespace Sys2Proof.Machine

/-! ### `setReg` -/

@[simp] theorem setReg_v (s : State) (x : Reg) (u : Byte) : (s.setReg x u).v = s.v.set x u := rfl
@[simp] theorem setReg_i (s : State) (x : Reg) (u : Byte) : (s.setReg x u).i = s.i := rfl
@[simp] theorem setReg_pc (s : State) (x : Reg) (u : Byte) : (s.setReg x u).pc = s.pc := rfl
@[simp] theorem setReg_stack (s : State) (x : Reg) (u : Byte) : (s.setReg x u).stack = s.stack := rfl
@[simp] theorem setReg_sp (s : State) (x : Reg) (u : Byte) : (s.setReg x u).sp = s.sp := rfl
@[simp] theorem setReg_dt (s : State) (x : Reg) (u : Byte) : (s.setReg x u).dt = s.dt := rfl
@[simp] theorem setReg_st (s : State) (x : Reg) (u : Byte) : (s.setReg x u).st = s.st := rfl
@[simp] theorem setReg_keys (s : State) (x : Reg) (u : Byte) : (s.setReg x u).keys = s.keys := rfl
@[simp] theorem setReg_fb (s : State) (x : Reg) (u : Byte) : (s.setReg x u).fb = s.fb := rfl
@[simp] theorem setReg_dirty (s : State) (x : Reg) (u : Byte) : (s.setReg x u).dirty = s.dirty := rfl
@[simp] theorem setReg_mem (s : State) (x : Reg) (u : Byte) : (s.setReg x u).mem = s.mem := rfl
@[simp] theorem setReg_fault (s : State) (x : Reg) (u : Byte) : (s.setReg x u).fault = s.fault := rfl
@[simp] theorem setReg_beep (s : State) (x : Reg) (u : Byte) : (s.setReg x u).beep = s.beep := rfl
@[simp] theorem setReg_renderNotify (s : State) (x : Reg) (u : Byte) : (s.setReg x u).renderNotify = s.renderNotify := rfl
@[simp] theorem setReg_keysIn (s : State) (x : Reg) (u : Byte) : (s.setReg x u).keysIn = s.keysIn := rfl
@[simp] theorem setReg_rndIn (s : State) (x : Reg) (u : Byte) : (s.setReg x u).rndIn = s.rndIn := rfl
@[simp] theorem setReg_cfg (s : State) (x : Reg) (u : Byte) : (s.setReg x u).cfg = s.cfg := rfl
@[simp] theorem setReg_readByte (s : State) (x : Reg) (u : Byte) (d : Nat) : (s.setReg x u).readByte d = s.readByte d := rfl
@[simp] theorem setReg_pixel (s : State) (x : Reg) (u : Byte) (p : Nat) : (s.setReg x u).pixel p = s.pixel p := rfl

/-! ### `setI` -/

@[simp] theorem setI_v (s : State) (u : Word) : (s.setI u).v = s.v := rfl
@[simp] theorem setI_i (s : State) (u : Word) : (s.setI u).i = u := rfl
@[simp] theorem setI_pc (s : State) (u : Word) : (s.setI u).pc = s.pc := rfl
@[simp] theorem setI_stack (s : State) (u : Word) : (s.setI u).stack = s.stack := rfl
@[simp] theorem setI_sp (s : State) (u : Word) : (s.setI u).sp = s.sp := rfl
@[simp] theorem setI_dt (s : State) (u : Word) : (s.setI u).dt = s.dt := rfl
@[simp] theorem setI_st (s : State) (u : Word) : (s.setI u).st = s.st := rfl
@[simp] theorem setI_keys (s : State) (u : Word) : (s.setI u).keys = s.keys := rfl
@[simp] theorem setI_fb (s : State) (u : Word) : (s.setI u).fb = s.fb := rfl
@[simp] theorem setI_dirty (s : State) (u : Word) : (s.setI u).dirty = s.dirty := rfl
@[simp] theorem setI_mem (s : State) (u : Word) : (s.setI u).mem = s.mem := rfl
@[simp] theorem setI_fault (s : State) (u : Word) : (s.setI u).fault = s.fault := rfl
@[simp] theorem setI_beep (s : State) (u : Word) : (s.setI u).beep = s.beep := rfl
@[simp] theorem setI_renderNotify (s : State) (u : Word) : (s.setI u).renderNotify = s.renderNotify := rfl
@[simp] theorem setI_keysIn (s : State) (u : Word) : (s.setI u).keysIn = s.keysIn := rfl
@[simp] theorem setI_rndIn (s : State) (u : Word) : (s.setI u).rndIn = s.rndIn := rfl
@[simp] theorem setI_cfg (s : State) (u : Word) : (s.setI u).cfg = s.cfg := rfl
@[simp] theorem setI_reg (s : State) (u : Word) (r : Reg) : (s.setI u).reg r = s.reg r := rfl
@[simp] theorem setI_readByte (s : State) (u : Word) (d : Nat) : (s.setI u).readByte d = s.readByte d := rfl
@[simp] theorem setI_pixel (s : State) (u : Word) (p : Nat) : (s.setI u).pixel p = s.pixel p := rfl

/-! ### `setPc` -/

@[simp] theorem setPc_v (s : State) (u : Word) : (s.setPc u).v = s.v := rfl
@[simp] theorem setPc_i (s : State) (u : Word) : (s.setPc u).i = s.i := rfl
@[simp] theorem setPc_pc (s : State) (u : Word) : (s.setPc u).pc = u := rfl
@[simp] theorem setPc_stack (s : State) (u : Word) : (s.setPc u).stack = s.stack := rfl
@[simp] theorem setPc_sp (s : State) (u : Word) : (s.setPc u).sp = s.sp := rfl
@[simp] theorem setPc_dt (s : State) (u : Word) : (s.setPc u).dt = s.dt := rfl
@[simp] theorem setPc_st (s : State) (u : Word) : (s.setPc u).st = s.st := rfl
@[simp] theorem setPc_keys (s : State) (u : Word) : (s.setPc u).keys = s.keys := rfl
@[simp] theorem setPc_fb (s : State) (u : Word) : (s.setPc u).fb = s.fb := rfl
@[simp] theorem setPc_dirty (s : State) (u : Word) : (s.setPc u).dirty = s.dirty := rfl
@[simp] theorem setPc_mem (s : State) (u : Word) : (s.setPc u).mem = s.mem := rfl
@[simp] theorem setPc_fault (s : State) (u : Word) : (s.setPc u).fault = s.fault := rfl
@[simp] theorem setPc_beep (s : State) (u : Word) : (s.setPc u).beep = s.beep := rfl
@[simp] theorem setPc_renderNotify (s : State) (u : Word) : (s.setPc u).renderNotify = s.renderNotify := rfl
@[simp] theorem setPc_keysIn (s : State) (u : Word) : (s.setPc u).keysIn = s.keysIn := rfl
@[simp] theorem setPc_rndIn (s : State) (u : Word) : (s.setPc u).rndIn = s.rndIn := rfl
@[simp] theorem setPc_cfg (s : State) (u : Word) : (s.setPc u).cfg = s.cfg := rfl
@[simp] theorem setPc_reg (s : State) (u : Word) (r : Reg) : (s.setPc u).reg r = s.reg r := rfl
@[simp] theorem setPc_readByte (s : State) (u : Word) (d : Nat) : (s.setPc u).readByte d = s.readByte d := rfl
@[simp] theorem setPc_pixel (s : State) (u : Word) (p : Nat) : (s.setPc u).pixel p = s.pixel p := rfl

/-! ### `skipIf` -/

@[simp] theorem skipIf_v (s : State) (c : Bool) : (s.skipIf c).v = s.v := rfl
@[simp] theorem skipIf_i (s : State) (c : Bool) : (s.skipIf c).i = s.i := rfl
@[simp] theorem skipIf_pc (s : State) (c : Bool) : (s.skipIf c).pc = if c then s.pc + 2 else s.pc := rfl
@[simp] theorem skipIf_stack (s : State) (c : Bool) : (s.skipIf c).stack = s.stack := rfl
@[simp] theorem skipIf_sp (s : State) (c : Bool) : (s.skipIf c).sp = s.sp := rfl
@[simp] theorem skipIf_dt (s : State) (c : Bool) : (s.skipIf c).dt = s.dt := rfl
@[simp] theorem skipIf_st (s : State) (c : Bool) : (s.skipIf c).st = s.st := rfl
@[simp] theorem skipIf_keys (s : State) (c : Bool) : (s.skipIf c).keys = s.keys := rfl
@[simp] theorem skipIf_fb (s : State) (c : Bool) : (s.skipIf c).fb = s.fb := rfl
@[simp] theorem skipIf_dirty (s : State) (c : Bool) : (s.skipIf c).dirty = s.dirty := rfl
@[simp] theorem skipIf_mem (s : State) (c : Bool) : (s.skipIf c).mem = s.mem := rfl
@[simp] theorem skipIf_fault (s : State) (c : Bool) : (s.skipIf c).fault = s.fault := rfl
@[simp] theorem skipIf_beep (s : State) (c : Bool) : (s.skipIf c).beep = s.beep := rfl
@[simp] theorem skipIf_renderNotify (s : State) (c : Bool) : (s.skipIf c).renderNotify = s.renderNotify := rfl
@[simp] theorem skipIf_keysIn (s : State) (c : Bool) : (s.skipIf c).keysIn = s.keysIn := rfl
@[simp] theorem skipIf_rndIn (s : State) (c : Bool) : (s.skipIf c).rndIn = s.rndIn := rfl
@[simp] theorem skipIf_cfg (s : State) (c : Bool) : (s.skipIf c).cfg = s.cfg := rfl
@[simp] theorem skipIf_reg (s : State) (c : Bool) (r : Reg) : (s.skipIf c).reg r = s.reg r := rfl
@[simp] theorem skipIf_readByte (s : State) (c : Bool) (d : Nat) : (s.skipIf c).readByte d = s.readByte d := rfl
@[simp] theorem skipIf_pixel (s : State) (c : Bool) (p : Nat) : (s.skipIf c).pixel p = s.pixel p := rfl

/-! ### `advancePc` -/

@[simp] theorem advancePc_v (s : State) : (s.advancePc).v = s.v := rfl
@[simp] theorem advancePc_i (s : State) : (s.advancePc).i = s.i := rfl
@[simp] theorem advancePc_pc (s : State) : (s.advancePc).pc = s.pc + 2 := rfl
@[simp] theorem advancePc_stack (s : State) : (s.advancePc).stack = s.stack := rfl
@[simp] theorem advancePc_sp (s : State) : (s.advancePc).sp = s.sp := rfl
@[simp] theorem advancePc_dt (s : State) : (s.advancePc).dt = s.dt := rfl
@[simp] theorem advancePc_st (s : State) : (s.advancePc).st = s.st := rfl
@[simp] theorem advancePc_keys (s : State) : (s.advancePc).keys = s.keys := rfl
@[simp] theorem advancePc_fb (s : State) : (s.advancePc).fb = s.fb := rfl
@[simp] theorem advancePc_dirty (s : State) : (s.advancePc).dirty = s.dirty := rfl
@[simp] theorem advancePc_mem (s : State) : (s.advancePc).mem = s.mem := rfl
@[simp] theorem advancePc_fault (s : State) : (s.advancePc).fault = s.fault := rfl
@[simp] theorem advancePc_beep (s : State) : (s.advancePc).beep = s.beep := rfl
@[simp] theorem advancePc_renderNotify (s : State) : (s.advancePc).renderNotify = s.renderNotify := rfl
@[simp] theorem advancePc_keysIn (s : State) : (s.advancePc).keysIn = s.keysIn := rfl
@[simp] theorem advancePc_rndIn (s : State) : (s.advancePc).rndIn = s.rndIn := rfl
@[simp] theorem advancePc_cfg (s : State) : (s.advancePc).cfg = s.cfg := rfl
@[simp] theorem advancePc_reg (s : State) (r : Reg) : (s.advancePc).reg r = s.reg r := rfl
@[simp] theorem advancePc_readByte (s : State) (d : Nat) : (s.advancePc).readByte d = s.readByte d := rfl
@[simp] theorem advancePc_pixel (s : State) (p : Nat) : (s.advancePc).pixel p = s.pixel p := rfl

/-! ### `raise` -/

@[simp] theorem raise_v (s : State) (e : Exception) : (s.raise e).v = s.v := rfl
@[simp] theorem raise_i (s : State) (e : Exception) : (s.raise e).i = s.i := rfl
@[simp] theorem raise_pc (s : State) (e : Exception) : (s.raise e).pc = s.pc := rfl
@[simp] theorem raise_stack (s : State) (e : Exception) : (s.raise e).stack = s.stack := rfl
@[simp] theorem raise_sp (s : State) (e : Exception) : (s.raise e).sp = s.sp := rfl
@[simp] theorem raise_dt (s : State) (e : Exception) : (s.raise e).dt = s.dt := rfl
@[simp] theorem raise_st (s : State) (e : Exception) : (s.raise e).st = s.st := rfl
@[simp] theorem raise_keys (s : State) (e : Exception) : (s.raise e).keys = s.keys := rfl
@[simp] theorem raise_fb (s : State) (e : Exception) : (s.raise e).fb = s.fb := rfl
@[simp] theorem raise_dirty (s : State) (e : Exception) : (s.raise e).dirty = s.dirty := rfl
@[simp] theorem raise_mem (s : State) (e : Exception) : (s.raise e).mem = s.mem := rfl
@[simp] theorem raise_fault (s : State) (e : Exception) : (s.raise e).fault = e.code := rfl
@[simp] theorem raise_beep (s : State) (e : Exception) : (s.raise e).beep = s.beep := rfl
@[simp] theorem raise_renderNotify (s : State) (e : Exception) : (s.raise e).renderNotify = s.renderNotify := rfl
@[simp] theorem raise_keysIn (s : State) (e : Exception) : (s.raise e).keysIn = s.keysIn := rfl
@[simp] theorem raise_rndIn (s : State) (e : Exception) : (s.raise e).rndIn = s.rndIn := rfl
@[simp] theorem raise_cfg (s : State) (e : Exception) : (s.raise e).cfg = s.cfg := rfl
@[simp] theorem raise_reg (s : State) (e : Exception) (r : Reg) : (s.raise e).reg r = s.reg r := rfl
@[simp] theorem raise_readByte (s : State) (e : Exception) (d : Nat) : (s.raise e).readByte d = s.readByte d := rfl
@[simp] theorem raise_pixel (s : State) (e : Exception) (p : Nat) : (s.raise e).pixel p = s.pixel p := rfl

/-! ### `pokeByte` -/

@[simp] theorem pokeByte_v (s : State) (a : Nat) (u : Byte) : (s.pokeByte a u).v = s.v := rfl
@[simp] theorem pokeByte_i (s : State) (a : Nat) (u : Byte) : (s.pokeByte a u).i = s.i := rfl
@[simp] theorem pokeByte_pc (s : State) (a : Nat) (u : Byte) : (s.pokeByte a u).pc = s.pc := rfl
@[simp] theorem pokeByte_stack (s : State) (a : Nat) (u : Byte) : (s.pokeByte a u).stack = s.stack := rfl
@[simp] theorem pokeByte_sp (s : State) (a : Nat) (u : Byte) : (s.pokeByte a u).sp = s.sp := rfl
@[simp] theorem pokeByte_dt (s : State) (a : Nat) (u : Byte) : (s.pokeByte a u).dt = s.dt := rfl
@[simp] theorem pokeByte_st (s : State) (a : Nat) (u : Byte) : (s.pokeByte a u).st = s.st := rfl
@[simp] theorem pokeByte_keys (s : State) (a : Nat) (u : Byte) : (s.pokeByte a u).keys = s.keys := rfl
@[simp] theorem pokeByte_fb (s : State) (a : Nat) (u : Byte) : (s.pokeByte a u).fb = s.fb := rfl
@[simp] theorem pokeByte_dirty (s : State) (a : Nat) (u : Byte) : (s.pokeByte a u).dirty = s.dirty := rfl
@[simp] theorem pokeByte_mem (s : State) (a : Nat) (u : Byte) : (s.pokeByte a u).mem = Memory.write s.cfg s.mem (a % 4096) u := rfl
@[simp] theorem pokeByte_fault (s : State) (a : Nat) (u : Byte) : (s.pokeByte a u).fault = s.fault := rfl
@[simp] theorem pokeByte_beep (s : State) (a : Nat) (u : Byte) : (s.pokeByte a u).beep = s.beep := rfl
@[simp] theorem pokeByte_renderNotify (s : State) (a : Nat) (u : Byte) : (s.pokeByte a u).renderNotify = s.renderNotify := rfl
@[simp] theorem pokeByte_keysIn (s : State) (a : Nat) (u : Byte) : (s.pokeByte a u).keysIn = s.keysIn := rfl
@[simp] theorem pokeByte_rndIn (s : State) (a : Nat) (u : Byte) : (s.pokeByte a u).rndIn = s.rndIn := rfl
@[simp] theorem pokeByte_cfg (s : State) (a : Nat) (u : Byte) : (s.pokeByte a u).cfg = s.cfg := rfl
@[simp] theorem pokeByte_reg (s : State) (a : Nat) (u : Byte) (r : Reg) : (s.pokeByte a u).reg r = s.reg r := rfl
@[simp] theorem pokeByte_pixel (s : State) (a : Nat) (u : Byte) (p : Nat) : (s.pokeByte a u).pixel p = s.pixel p := rfl

/-! ### `takeRnd` -/

@[simp] theorem takeRnd_v (s : State) : (s.takeRnd).v = s.v := rfl
@[simp] theorem takeRnd_i (s : State) : (s.takeRnd).i = s.i := rfl
@[simp] theorem takeRnd_pc (s : State) : (s.takeRnd).pc = s.pc := rfl
@[simp] theorem takeRnd_stack (s : State) : (s.takeRnd).stack = s.stack := rfl
@[simp] theorem takeRnd_sp (s : State) : (s.takeRnd).sp = s.sp := rfl
@[simp] theorem takeRnd_dt (s : State) : (s.takeRnd).dt = s.dt := rfl
@[simp] theorem takeRnd_st (s : State) : (s.takeRnd).st = s.st := rfl
@[simp] theorem takeRnd_keys (s : State) : (s.takeRnd).keys = s.keys := rfl
@[simp] theorem takeRnd_fb (s : State) : (s.takeRnd).fb = s.fb := rfl
@[simp] theorem takeRnd_dirty (s : State) : (s.takeRnd).dirty = s.dirty := rfl
@[simp] theorem takeRnd_mem (s : State) : (s.takeRnd).mem = s.mem := rfl
@[simp] theorem takeRnd_fault (s : State) : (s.takeRnd).fault = s.fault := rfl
@[simp] theorem takeRnd_beep (s : State) : (s.takeRnd).beep = s.beep := rfl
@[simp] theorem takeRnd_renderNotify (s : State) : (s.takeRnd).renderNotify = s.renderNotify := rfl
@[simp] theorem takeRnd_keysIn (s : State) : (s.takeRnd).keysIn = s.keysIn := rfl
@[simp] theorem takeRnd_rndIn (s : State) : (s.takeRnd).rndIn = s.rndIn.advance := rfl
@[simp] theorem takeRnd_cfg (s : State) : (s.takeRnd).cfg = s.cfg := rfl
@[simp] theorem takeRnd_reg (s : State) (r : Reg) : (s.takeRnd).reg r = s.reg r := rfl
@[simp] theorem takeRnd_readByte (s : State) (d : Nat) : (s.takeRnd).readByte d = s.readByte d := rfl
@[simp] theorem takeRnd_pixel (s : State) (p : Nat) : (s.takeRnd).pixel p = s.pixel p := rfl

/-! ### `lowerPulses` -/

@[simp] theorem lowerPulses_v (s : State) : (s.lowerPulses).v = s.v := rfl
@[simp] theorem lowerPulses_i (s : State) : (s.lowerPulses).i = s.i := rfl
@[simp] theorem lowerPulses_pc (s : State) : (s.lowerPulses).pc = s.pc := rfl
@[simp] theorem lowerPulses_stack (s : State) : (s.lowerPulses).stack = s.stack := rfl
@[simp] theorem lowerPulses_sp (s : State) : (s.lowerPulses).sp = s.sp := rfl
@[simp] theorem lowerPulses_dt (s : State) : (s.lowerPulses).dt = s.dt := rfl
@[simp] theorem lowerPulses_st (s : State) : (s.lowerPulses).st = s.st := rfl
@[simp] theorem lowerPulses_keys (s : State) : (s.lowerPulses).keys = s.keys := rfl
@[simp] theorem lowerPulses_fb (s : State) : (s.lowerPulses).fb = s.fb := rfl
@[simp] theorem lowerPulses_dirty (s : State) : (s.lowerPulses).dirty = s.dirty := rfl
@[simp] theorem lowerPulses_mem (s : State) : (s.lowerPulses).mem = s.mem := rfl
@[simp] theorem lowerPulses_fault (s : State) : (s.lowerPulses).fault = s.fault := rfl
@[simp] theorem lowerPulses_beep (s : State) : (s.lowerPulses).beep = false := rfl
@[simp] theorem lowerPulses_renderNotify (s : State) : (s.lowerPulses).renderNotify = false := rfl
@[simp] theorem lowerPulses_keysIn (s : State) : (s.lowerPulses).keysIn = s.keysIn := rfl
@[simp] theorem lowerPulses_rndIn (s : State) : (s.lowerPulses).rndIn = s.rndIn := rfl
@[simp] theorem lowerPulses_cfg (s : State) : (s.lowerPulses).cfg = s.cfg := rfl
@[simp] theorem lowerPulses_reg (s : State) (r : Reg) : (s.lowerPulses).reg r = s.reg r := rfl
@[simp] theorem lowerPulses_readByte (s : State) (d : Nat) : (s.lowerPulses).readByte d = s.readByte d := rfl
@[simp] theorem lowerPulses_pixel (s : State) (p : Nat) : (s.lowerPulses).pixel p = s.pixel p := rfl

/-! ### `refreshKeys` -/

@[simp] theorem refreshKeys_v (s : State) : (s.refreshKeys).v = s.v := rfl
@[simp] theorem refreshKeys_i (s : State) : (s.refreshKeys).i = s.i := rfl
@[simp] theorem refreshKeys_pc (s : State) : (s.refreshKeys).pc = s.pc := rfl
@[simp] theorem refreshKeys_stack (s : State) : (s.refreshKeys).stack = s.stack := rfl
@[simp] theorem refreshKeys_sp (s : State) : (s.refreshKeys).sp = s.sp := rfl
@[simp] theorem refreshKeys_dt (s : State) : (s.refreshKeys).dt = s.dt := rfl
@[simp] theorem refreshKeys_st (s : State) : (s.refreshKeys).st = s.st := rfl
@[simp] theorem refreshKeys_keys (s : State) : (s.refreshKeys).keys = s.keysSample := rfl
@[simp] theorem refreshKeys_fb (s : State) : (s.refreshKeys).fb = s.fb := rfl
@[simp] theorem refreshKeys_dirty (s : State) : (s.refreshKeys).dirty = s.dirty := rfl
@[simp] theorem refreshKeys_mem (s : State) : (s.refreshKeys).mem = s.mem := rfl
@[simp] theorem refreshKeys_fault (s : State) : (s.refreshKeys).fault = s.fault := rfl
@[simp] theorem refreshKeys_beep (s : State) : (s.refreshKeys).beep = s.beep := rfl
@[simp] theorem refreshKeys_renderNotify (s : State) : (s.refreshKeys).renderNotify = s.renderNotify := rfl
@[simp] theorem refreshKeys_keysIn (s : State) : (s.refreshKeys).keysIn = s.keysIn.advance := rfl
@[simp] theorem refreshKeys_rndIn (s : State) : (s.refreshKeys).rndIn = s.rndIn := rfl
@[simp] theorem refreshKeys_cfg (s : State) : (s.refreshKeys).cfg = s.cfg := rfl
@[simp] theorem refreshKeys_reg (s : State) (r : Reg) : (s.refreshKeys).reg r = s.reg r := rfl
@[simp] theorem refreshKeys_readByte (s : State) (d : Nat) : (s.refreshKeys).readByte d = s.readByte d := rfl
@[simp] theorem refreshKeys_pixel (s : State) (p : Nat) : (s.refreshKeys).pixel p = s.pixel p := rfl

/-! ### `cycleStart` -/

@[simp] theorem cycleStart_v (s : State) : (s.cycleStart).v = s.v := rfl
@[simp] theorem cycleStart_i (s : State) : (s.cycleStart).i = s.i := rfl
@[simp] theorem cycleStart_pc (s : State) : (s.cycleStart).pc = s.pc := rfl
@[simp] theorem cycleStart_stack (s : State) : (s.cycleStart).stack = s.stack := rfl
@[simp] theorem cycleStart_sp (s : State) : (s.cycleStart).sp = s.sp := rfl
@[simp] theorem cycleStart_dt (s : State) : (s.cycleStart).dt = s.dt := rfl
@[simp] theorem cycleStart_st (s : State) : (s.cycleStart).st = s.st := rfl
@[simp] theorem cycleStart_keys (s : State) : (s.cycleStart).keys = s.keysSample := rfl
@[simp] theorem cycleStart_fb (s : State) : (s.cycleStart).fb = s.fb := rfl
@[simp] theorem cycleStart_dirty (s : State) : (s.cycleStart).dirty = s.dirty := rfl
@[simp] theorem cycleStart_mem (s : State) : (s.cycleStart).mem = s.mem := rfl
@[simp] theorem cycleStart_fault (s : State) : (s.cycleStart).fault = s.fault := rfl
@[simp] theorem cycleStart_beep (s : State) : (s.cycleStart).beep = false := rfl
@[simp] theorem cycleStart_renderNotify (s : State) : (s.cycleStart).renderNotify = false := rfl
@[simp] theorem cycleStart_keysIn (s : State) : (s.cycleStart).keysIn = s.keysIn.advance := rfl
@[simp] theorem cycleStart_rndIn (s : State) : (s.cycleStart).rndIn = s.rndIn := rfl
@[simp] theorem cycleStart_cfg (s : State) : (s.cycleStart).cfg = s.cfg := rfl
@[simp] theorem cycleStart_reg (s : State) (r : Reg) : (s.cycleStart).reg r = s.reg r := rfl
@[simp] theorem cycleStart_readByte (s : State) (d : Nat) : (s.cycleStart).readByte d = s.readByte d := rfl
@[simp] theorem cycleStart_pixel (s : State) (p : Nat) : (s.cycleStart).pixel p = s.pixel p := rfl

/-! ### `tick` -/

@[simp] theorem tick_v (s : State) : (s.tick).v = s.v := rfl
@[simp] theorem tick_i (s : State) : (s.tick).i = s.i := rfl
@[simp] theorem tick_pc (s : State) : (s.tick).pc = s.pc := rfl
@[simp] theorem tick_stack (s : State) : (s.tick).stack = s.stack := rfl
@[simp] theorem tick_sp (s : State) : (s.tick).sp = s.sp := rfl
@[simp] theorem tick_dt (s : State) : (s.tick).dt = countDown s.dt := rfl
@[simp] theorem tick_st (s : State) : (s.tick).st = countDown s.st := rfl
@[simp] theorem tick_keys (s : State) : (s.tick).keys = s.keys := rfl
@[simp] theorem tick_fb (s : State) : (s.tick).fb = s.fb := rfl
@[simp] theorem tick_dirty (s : State) : (s.tick).dirty = s.dirty := rfl
@[simp] theorem tick_mem (s : State) : (s.tick).mem = s.mem := rfl
@[simp] theorem tick_fault (s : State) : (s.tick).fault = s.fault := rfl
@[simp] theorem tick_beep (s : State) : (s.tick).beep = (s.st != 0 && countDown s.st == 0) := rfl
@[simp] theorem tick_renderNotify (s : State) : (s.tick).renderNotify = s.renderNotify := rfl
@[simp] theorem tick_keysIn (s : State) : (s.tick).keysIn = s.keysIn := rfl
@[simp] theorem tick_rndIn (s : State) : (s.tick).rndIn = s.rndIn := rfl
@[simp] theorem tick_cfg (s : State) : (s.tick).cfg = s.cfg := rfl
@[simp] theorem tick_reg (s : State) (r : Reg) : (s.tick).reg r = s.reg r := rfl
@[simp] theorem tick_readByte (s : State) (d : Nat) : (s.tick).readByte d = s.readByte d := rfl
@[simp] theorem tick_pixel (s : State) (p : Nat) : (s.tick).pixel p = s.pixel p := rfl

/-! ### `render` -/

@[simp] theorem render_v (s : State) : (s.render).v = s.v := rfl
@[simp] theorem render_i (s : State) : (s.render).i = s.i := rfl
@[simp] theorem render_pc (s : State) : (s.render).pc = s.pc := rfl
@[simp] theorem render_stack (s : State) : (s.render).stack = s.stack := rfl
@[simp] theorem render_sp (s : State) : (s.render).sp = s.sp := rfl
@[simp] theorem render_dt (s : State) : (s.render).dt = s.dt := rfl
@[simp] theorem render_st (s : State) : (s.render).st = s.st := rfl
@[simp] theorem render_keys (s : State) : (s.render).keys = s.keys := rfl
@[simp] theorem render_fb (s : State) : (s.render).fb = s.fb := rfl
@[simp] theorem render_dirty (s : State) : (s.render).dirty = false := rfl
@[simp] theorem render_mem (s : State) : (s.render).mem = s.mem := rfl
@[simp] theorem render_fault (s : State) : (s.render).fault = s.fault := rfl
@[simp] theorem render_beep (s : State) : (s.render).beep = s.beep := rfl
@[simp] theorem render_renderNotify (s : State) : (s.render).renderNotify = s.dirty := rfl
@[simp] theorem render_keysIn (s : State) : (s.render).keysIn = s.keysIn := rfl
@[simp] theorem render_rndIn (s : State) : (s.render).rndIn = s.rndIn := rfl
@[simp] theorem render_cfg (s : State) : (s.render).cfg = s.cfg := rfl
@[simp] theorem render_reg (s : State) (r : Reg) : (s.render).reg r = s.reg r := rfl
@[simp] theorem render_readByte (s : State) (d : Nat) : (s.render).readByte d = s.readByte d := rfl
@[simp] theorem render_pixel (s : State) (p : Nat) : (s.render).pixel p = s.pixel p := rfl

/-! ### `setFlag` -/

@[simp] theorem setFlag_v (s : State) (c : Bool) : (s.setFlag c).v = s.v.set regF (flagByte c) := rfl
@[simp] theorem setFlag_i (s : State) (c : Bool) : (s.setFlag c).i = s.i := rfl
@[simp] theorem setFlag_pc (s : State) (c : Bool) : (s.setFlag c).pc = s.pc := rfl
@[simp] theorem setFlag_stack (s : State) (c : Bool) : (s.setFlag c).stack = s.stack := rfl
@[simp] theorem setFlag_sp (s : State) (c : Bool) : (s.setFlag c).sp = s.sp := rfl
@[simp] theorem setFlag_dt (s : State) (c : Bool) : (s.setFlag c).dt = s.dt := rfl
@[simp] theorem setFlag_st (s : State) (c : Bool) : (s.setFlag c).st = s.st := rfl
@[simp] theorem setFlag_keys (s : State) (c : Bool) : (s.setFlag c).keys = s.keys := rfl
@[simp] theorem setFlag_fb (s : State) (c : Bool) : (s.setFlag c).fb = s.fb := rfl
@[simp] theorem setFlag_dirty (s : State) (c : Bool) : (s.setFlag c).dirty = s.dirty := rfl
@[simp] theorem setFlag_mem (s : State) (c : Bool) : (s.setFlag c).mem = s.mem := rfl
@[simp] theorem setFlag_fault (s : State) (c : Bool) : (s.setFlag c).fault = s.fault := rfl
@[simp] theorem setFlag_beep (s : State) (c : Bool) : (s.setFlag c).beep = s.beep := rfl
@[simp] theorem setFlag_renderNotify (s : State) (c : Bool) : (s.setFlag c).renderNotify = s.renderNotify := rfl
@[simp] theorem setFlag_keysIn (s : State) (c : Bool) : (s.setFlag c).keysIn = s.keysIn := rfl
@[simp] theorem setFlag_rndIn (s : State) (c : Bool) : (s.setFlag c).rndIn = s.rndIn := rfl
@[simp] theorem setFlag_cfg (s : State) (c : Bool) : (s.setFlag c).cfg = s.cfg := rfl
@[simp] theorem setFlag_readByte (s : State) (c : Bool) (d : Nat) : (s.setFlag c).readByte d = s.readByte d := rfl
@[simp] theorem setFlag_pixel (s : State) (c : Bool) (p : Nat) : (s.setFlag c).pixel p = s.pixel p := rfl

/-! ### `setResult` -/

@[simp] theorem setResult_v (s : State) (x : Reg) (u : Byte) (c : Bool) : (s.setResult x u c).v = (s.v.set x u).set regF (flagByte c) := rfl
@[simp] theorem setResult_i (s : State) (x : Reg) (u : Byte) (c : Bool) : (s.setResult x u c).i = s.i := rfl
@[simp] theorem setResult_pc (s : State) (x : Reg) (u : Byte) (c : Bool) : (s.setResult x u c).pc = s.pc := rfl
@[simp] theorem setResult_stack (s : State) (x : Reg) (u : Byte) (c : Bool) : (s.setResult x u c).stack = s.stack := rfl
@[simp] theorem setResult_sp (s : State) (x : Reg) (u : Byte) (c : Bool) : (s.setResult x u c).sp = s.sp := rfl
@[simp] theorem setResult_dt (s : State) (x : Reg) (u : Byte) (c : Bool) : (s.setResult x u c).dt = s.dt := rfl
@[simp] theorem setResult_st (s : State) (x : Reg) (u : Byte) (c : Bool) : (s.setResult x u c).st = s.st := rfl
@[simp] theorem setResult_keys (s : State) (x : Reg) (u : Byte) (c : Bool) : (s.setResult x u c).keys = s.keys := rfl
@[simp] theorem setResult_fb (s : State) (x : Reg) (u : Byte) (c : Bool) : (s.setResult x u c).fb = s.fb := rfl
@[simp] theorem setResult_dirty (s : State) (x : Reg) (u : Byte) (c : Bool) : (s.setResult x u c).dirty = s.dirty := rfl
@[simp] theorem setResult_mem (s : State) (x : Reg) (u : Byte) (c : Bool) : (s.setResult x u c).mem = s.mem := rfl
@[simp] theorem setResult_fault (s : State) (x : Reg) (u : Byte) (c : Bool) : (s.setResult x u c).fault = s.fault := rfl
@[simp] theorem setResult_beep (s : State) (x : Reg) (u : Byte) (c : Bool) : (s.setResult x u c).beep = s.beep := rfl
@[simp] theorem setResult_renderNotify (s : State) (x : Reg) (u : Byte) (c : Bool) : (s.setResult x u c).renderNotify = s.renderNotify := rfl
@[simp] theorem setResult_keysIn (s : State) (x : Reg) (u : Byte) (c : Bool) : (s.setResult x u c).keysIn = s.keysIn := rfl
@[simp] theorem setResult_rndIn (s : State) (x : Reg) (u : Byte) (c : Bool) : (s.setResult x u c).rndIn = s.rndIn := rfl
@[simp] theorem setResult_cfg (s : State) (x : Reg) (u : Byte) (c : Bool) : (s.setResult x u c).cfg = s.cfg := rfl
@[simp] theorem setResult_readByte (s : State) (x : Reg) (u : Byte) (c : Bool) (d : Nat) : (s.setResult x u c).readByte d = s.readByte d := rfl
@[simp] theorem setResult_pixel (s : State) (x : Reg) (u : Byte) (c : Bool) (p : Nat) : (s.setResult x u c).pixel p = s.pixel p := rfl

/-! ### `writeByte`, which changes `mem` alone -/

theorem writeByte_eq (s : State) (a : Nat) (u : Byte) : s.writeByte a u = { s with mem := (s.writeByte a u).mem } := by
  unfold State.writeByte
  split <;> rfl

@[simp] theorem writeByte_v (s : State) (a : Nat) (u : Byte) : (s.writeByte a u).v = s.v := by
  rw [writeByte_eq]
@[simp] theorem writeByte_i (s : State) (a : Nat) (u : Byte) : (s.writeByte a u).i = s.i := by
  rw [writeByte_eq]
@[simp] theorem writeByte_pc (s : State) (a : Nat) (u : Byte) : (s.writeByte a u).pc = s.pc := by
  rw [writeByte_eq]
@[simp] theorem writeByte_stack (s : State) (a : Nat) (u : Byte) : (s.writeByte a u).stack = s.stack := by
  rw [writeByte_eq]
@[simp] theorem writeByte_sp (s : State) (a : Nat) (u : Byte) : (s.writeByte a u).sp = s.sp := by
  rw [writeByte_eq]
@[simp] theorem writeByte_dt (s : State) (a : Nat) (u : Byte) : (s.writeByte a u).dt = s.dt := by
  rw [writeByte_eq]
@[simp] theorem writeByte_st (s : State) (a : Nat) (u : Byte) : (s.writeByte a u).st = s.st := by
  rw [writeByte_eq]
@[simp] theorem writeByte_keys (s : State) (a : Nat) (u : Byte) : (s.writeByte a u).keys = s.keys := by
  rw [writeByte_eq]
@[simp] theorem writeByte_fb (s : State) (a : Nat) (u : Byte) : (s.writeByte a u).fb = s.fb := by
  rw [writeByte_eq]
@[simp] theorem writeByte_dirty (s : State) (a : Nat) (u : Byte) : (s.writeByte a u).dirty = s.dirty := by
  rw [writeByte_eq]
@[simp] theorem writeByte_fault (s : State) (a : Nat) (u : Byte) : (s.writeByte a u).fault = s.fault := by
  rw [writeByte_eq]
@[simp] theorem writeByte_beep (s : State) (a : Nat) (u : Byte) : (s.writeByte a u).beep = s.beep := by
  rw [writeByte_eq]
@[simp] theorem writeByte_renderNotify (s : State) (a : Nat) (u : Byte) : (s.writeByte a u).renderNotify = s.renderNotify := by
  rw [writeByte_eq]
@[simp] theorem writeByte_keysIn (s : State) (a : Nat) (u : Byte) : (s.writeByte a u).keysIn = s.keysIn := by
  rw [writeByte_eq]
@[simp] theorem writeByte_rndIn (s : State) (a : Nat) (u : Byte) : (s.writeByte a u).rndIn = s.rndIn := by
  rw [writeByte_eq]
@[simp] theorem writeByte_cfg (s : State) (a : Nat) (u : Byte) : (s.writeByte a u).cfg = s.cfg := by
  rw [writeByte_eq]
@[simp] theorem writeByte_reg (s : State) (a : Nat) (u : Byte) (r : Reg) : (s.writeByte a u).reg r = s.reg r := by
  rw [writeByte_eq]; rfl
@[simp] theorem writeByte_pixel (s : State) (a : Nat) (u : Byte) (p : Nat) : (s.writeByte a u).pixel p = s.pixel p := by
  rw [writeByte_eq]; rfl

end Sys2Proof.Machine
end

