-- ==== Sys2Proof/Laws/Memory.lean ====
section
/-! SUPPORT. What the memory operations do, and that they keep the canonical form (20_memory.md R43, R46, R50). -/

namespace Sys2Proof.Machine

/-! ### Reading after writing -/

theorem Memory.read_erase (cfg : Config) (m : Memory) (a b : Nat) :
    Memory.read cfg (Memory.erase m a) b = if b = a then Memory.unlisted cfg b else Memory.read cfg m b := by
  induction m with
  | nil => simp [Memory.erase, Memory.read]
  | cons c m ih =>
    obtain ⟨d, u⟩ := c
    simp only [Memory.erase]
    split <;> simp only [Memory.read, ih] <;> by_cases hb : b = a <;> simp_all

theorem Memory.read_insert (cfg : Config) (m : Memory) (a b : Nat) (u : Byte)
    (absent : ∀ c ∈ m, c.1 ≠ a) :
    Memory.read cfg (Memory.insert m a u) b = if b = a then u else Memory.read cfg m b := by
  induction m with
  | nil => simp [Memory.insert, Memory.read]
  | cons c m ih =>
    obtain ⟨d, t⟩ := c
    have hd : d ≠ a := absent (d, t) (by simp)
    have ih := ih fun c hc => absent c (by simp [hc])
    simp only [Memory.insert]
    split
    · simp only [Memory.read]
    · simp only [Memory.read, ih]
      split <;> split <;> simp_all

theorem Memory.mem_erase {m : Memory} {a : Nat} {c : Host.Cell} :
    c ∈ Memory.erase m a ↔ c ∈ m ∧ c.1 ≠ a := by
  induction m with
  | nil => simp [Memory.erase]
  | cons d m ih =>
    obtain ⟨d, t⟩ := d
    simp only [Memory.erase]
    split
    · subst d
      rw [ih]
      constructor
      · exact fun h => ⟨List.mem_cons_of_mem _ h.1, h.2⟩
      · rintro ⟨h, hne⟩
        rcases List.mem_cons.mp h with rfl | h
        · exact absurd rfl hne
        · exact ⟨h, hne⟩
    · rename_i hne
      simp only [List.mem_cons, ih]
      constructor
      · rintro (rfl | h)
        · exact ⟨.inl rfl, fun e => hne e.symm⟩
        · exact ⟨.inr h.1, h.2⟩
      · rintro ⟨rfl | h, h2⟩
        · exact .inl rfl
        · exact .inr ⟨h, h2⟩

/-- A byte written reads back, and every other byte reads as before. -/
theorem Memory.read_write (cfg : Config) (m : Memory) (a b : Nat) (u : Byte) :
    Memory.read cfg (Memory.write cfg m a u) b = if b = a then u else Memory.read cfg m b := by
  unfold Memory.write
  split
  · rw [Memory.read_erase]
    split <;> simp_all
  · rw [Memory.read_insert _ _ _ _ _ fun c hc => (Memory.mem_erase.mp hc).2, Memory.read_erase]
    split <;> simp_all

/-! ### The canonical form -/

theorem Memory.mem_insert {m : Memory} {a : Nat} {u : Byte} {c : Host.Cell} :
    c ∈ Memory.insert m a u ↔ c = (a, u) ∨ c ∈ m := by
  induction m with
  | nil => simp [Memory.insert]
  | cons d m ih =>
    obtain ⟨d, t⟩ := d
    simp only [Memory.insert]
    split
    · simp
    · simp only [List.mem_cons, ih]
      tauto

/-- The canonical form as three facts. -/
theorem Memory.wf_iff (cfg : Config) (m : Memory) :
    Memory.wf cfg m = true ↔
      (m.map Prod.fst).Pairwise (· < ·) ∧ ∀ c ∈ m, c.1 < 4096 ∧ c.2 ≠ Memory.unlisted cfg c.1 := by
  simp [Memory.wf]

theorem Memory.wf_nil (cfg : Config) : Memory.wf cfg [] = true := by simp [Memory.wf]

theorem Memory.rising_erase {m : Memory} (a : Nat) (h : (m.map Prod.fst).Pairwise (· < ·)) :
    ((Memory.erase m a).map Prod.fst).Pairwise (· < ·) := by
  induction m with
  | nil => exact h
  | cons d m ih =>
    obtain ⟨d, t⟩ := d
    simp only [List.map_cons, List.pairwise_cons, List.mem_map, forall_exists_index, and_imp,
      forall_apply_eq_imp_iff₂] at h
    simp only [Memory.erase]
    split
    · exact ih h.2
    · simp only [List.map_cons, List.pairwise_cons, List.mem_map, forall_exists_index, and_imp,
        forall_apply_eq_imp_iff₂]
      exact ⟨fun c hc => h.1 c (Memory.mem_erase.mp hc).1, ih h.2⟩

theorem Memory.rising_insert {m : Memory} {a : Nat} (u : Byte) (h : (m.map Prod.fst).Pairwise (· < ·))
    (absent : ∀ c ∈ m, c.1 ≠ a) : ((Memory.insert m a u).map Prod.fst).Pairwise (· < ·) := by
  induction m with
  | nil => simp [Memory.insert]
  | cons d m ih =>
    obtain ⟨d, t⟩ := d
    simp only [List.map_cons, List.pairwise_cons, List.mem_map, forall_exists_index, and_imp,
      forall_apply_eq_imp_iff₂] at h
    have hd : d ≠ a := absent (d, t) (by simp)
    simp only [Memory.insert]
    split
    · rename_i hlt
      simp only [List.map_cons, List.pairwise_cons, List.mem_cons, List.mem_map, forall_eq_or_imp,
        forall_exists_index, and_imp, forall_apply_eq_imp_iff₂]
      exact ⟨⟨hlt, fun c hc => Nat.lt_trans hlt (h.1 c hc)⟩, h.1, h.2⟩
    · rename_i hge
      simp only [List.map_cons, List.pairwise_cons, List.mem_map, forall_exists_index, and_imp,
        forall_apply_eq_imp_iff₂]
      refine ⟨fun c hc => ?_, ih h.2 fun c hc => absent c (by simp [hc])⟩
      rcases Memory.mem_insert.mp hc with rfl | hc
      · show d < a
        omega
      · exact h.1 c hc

/-- Every write keeps the canonical form. -/
theorem Memory.wf_write {cfg : Config} {m : Memory} (a : Nat) (u : Byte) (ha : a < 4096)
    (h : Memory.wf cfg m = true) : Memory.wf cfg (Memory.write cfg m a u) = true := by
  rw [Memory.wf_iff] at h ⊢
  unfold Memory.write
  split
  · exact ⟨Memory.rising_erase a h.1, fun c hc => h.2 c (Memory.mem_erase.mp hc).1⟩
  · rename_i hne
    refine ⟨Memory.rising_insert u (Memory.rising_erase a h.1) fun c hc => (Memory.mem_erase.mp hc).2, fun c hc => ?_⟩
    rcases Memory.mem_insert.mp hc with rfl | hc
    · exact ⟨ha, hne⟩
    · exact h.2 c (Memory.mem_erase.mp hc).1

/-! ### The operations of the state -/

/-- A load after an unguarded store. -/
theorem readByte_pokeByte (s : State) (a b : Nat) (u : Byte) :
    (s.pokeByte a u).readByte b = if b % 4096 = a % 4096 then u else s.readByte b := by
  simp only [State.readByte, State.pokeByte, Memory.read_write]

/-- A load after a store: the stored byte, unless the address differs or the store was dropped. -/
theorem readByte_writeByte (s : State) (a b : Nat) (u : Byte) :
    (s.writeByte a u).readByte b = if b % 4096 = a % 4096 ∧ s.drops a = false then u else s.readByte b := by
  unfold State.writeByte
  split
  · simp_all
  · rw [readByte_pokeByte]
    simp_all

/-- Only the address modulo 4096 counts. -/
theorem readByte_mod (s : State) (a : Nat) : s.readByte (a % 4096) = s.readByte a := by
  simp [State.readByte]

theorem drops_eq (s : State) (a : Nat) :
    s.drops a = true ↔ s.cfg.fontWritePolicy = .ignore ∧ a % 4096 < 80 := by
  simp [State.drops]
  omega

@[simp] theorem drops_writeByte (s : State) (a b : Nat) (u : Byte) : (s.writeByte a u).drops b = s.drops b := by
  simp [State.drops]

/-- A store keeps the canonical form. -/
theorem wf_writeByte {s : State} (a : Nat) (u : Byte) (h : Memory.wf s.cfg s.mem = true) :
    Memory.wf s.cfg (s.writeByte a u).mem = true := by
  unfold State.writeByte
  split
  · exact h
  · exact Memory.wf_write _ _ (Nat.mod_lt _ (by decide)) h

/-- Under the policy `ignore` no store changes the font region (20_memory.md R46). -/
theorem writeByte_keeps_font {s : State} {a b : Nat} {u : Byte} (hp : s.cfg.fontWritePolicy = .ignore)
    (hb : b % 4096 < 80) : (s.writeByte a u).readByte b = s.readByte b := by
  rw [readByte_writeByte, if_neg]
  rintro ⟨he, hd⟩
  have : s.drops a = true := (drops_eq s a).mpr ⟨hp, by omega⟩
  simp_all

end Sys2Proof.Machine
end

