-- ==== Sys2Proof/Laws/Ops.lean ====
section
/-! SUPPORT. One lemma per shared operation: everything it can do, so that a proof cites it and does not unfold it. -/

namespace Sys2Proof.Machine

/-! ### Registers and flags -/

theorem reg_setReg (s : State) (x r : Reg) (u : Byte) : (s.setReg x u).reg r = if r = x then u else s.reg r := by
  simp only [State.reg, State.setReg, Fin.getElem_fin, Vector.getElem_set, Fin.val_inj, eq_comm]

theorem reg_setFlag (s : State) (r : Reg) (c : Bool) :
    (s.setFlag c).reg r = if r = 15 then flagByte c else s.reg r := reg_setReg s 15 r _

theorem reg_setResult (s : State) (x r : Reg) (u : Byte) (c : Bool) :
    (s.setResult x u c).reg r = if r = 15 then flagByte c else if r = x then u else s.reg r := by
  unfold State.setResult
  rw [reg_setFlag, reg_setReg]

theorem flagByte_toNat (c : Bool) : (flagByte c).toNat = if c then 1 else 0 := by cases c <;> rfl

/-- The program counter after a skip. -/
theorem skipIf_eq (s : State) (c : Bool) : s.skipIf c = if c then s.setPc (s.pc + 2) else s := by
  cases c <;> rfl

/-! ### Operand forms -/

theorem addrOperand_toNat (nnn : BitVec 12) : (addrOperand nnn).toNat = nnn.toNat := by
  have := nnn.isLt
  rw [addrOperand, BitVec.toNat_setWidth, Nat.mod_eq_of_lt (by omega)]

theorem regWord_toNat (s : State) (x : Reg) : (s.regWord x).toNat = (s.reg x).toNat := by
  have := (s.reg x).isLt
  rw [State.regWord, BitVec.toNat_setWidth, Nat.mod_eq_of_lt (by omega)]

theorem keyOperand_eq (s : State) (x : Reg) : s.keyOperand x = (s.reg x).toNat % 16 := by
  rw [State.keyOperand, BitVec.extractLsb'_toNat, Nat.shiftRight_zero]

theorem indexPlus_toNat (s : State) (k : Nat) : (s.indexPlus k).toNat = (s.i.toNat + k) % 4096 := by
  have := Nat.mod_lt (s.i.toNat + k) (show 4096 > 0 by decide)
  rw [State.indexPlus, BitVec.toNat_ofNat, Nat.mod_eq_of_lt (by omega)]

theorem glyphAddr_toNat (s : State) (x : Reg) : (s.glyphAddr x).toNat = (s.reg x).toNat * 5 := by
  have h := (s.reg x).isLt
  rw [State.glyphAddr, BitVec.toNat_mul, regWord_toNat]
  exact Nat.mod_eq_of_lt (Nat.lt_of_le_of_lt (Nat.mul_le_mul_right 5 (Nat.le_of_lt h)) (by decide))

/-! ### The call stack -/

theorem push_of_lt {s : State} (u : Word) (h : s.sp.val < 16) :
    s.push u = some { s with stack := s.stack.set s.sp.val u h, sp := ⟨s.sp.val + 1, Nat.succ_lt_succ h⟩ } := by
  simp [State.push, h]

theorem push_of_full {s : State} (u : Word) (h : s.sp.val = 16) : s.push u = none := by
  simp [State.push, h]

theorem pop_of_empty {s : State} (h : s.sp.val = 0) : s.pop = none := by
  simp [State.pop, h]

/-- A pop takes the youngest live entry and changes `SP` alone. -/
theorem pop_of_pos {s : State} (k : Fin 16) (h : k.val + 1 = s.sp.val) :
    s.pop = some (s.stack[k], { s with sp := ⟨k.val, Nat.lt_succ_of_lt k.isLt⟩ }) := by
  have hk : s.sp.val - 1 = k.val := by omega
  have hp : 0 < s.sp.val := by omega
  simp [State.pop, hp, hk]

/-! ### Ports -/

theorem InPort.value_cons {n : Nat} (free : Nat → BitVec n) (u : BitVec n) (us : List (BitVec n)) (k : Nat) :
    (InPort.mk (u :: us) k).value free = u := rfl

theorem InPort.value_nil {n : Nat} (free : Nat → BitVec n) (k : Nat) : (InPort.mk [] k).value free = free k := rfl

/-! ### Timers -/

theorem countDown_toNat (u : Byte) : (countDown u).toNat = u.toNat - 1 := by
  unfold countDown
  split
  · simp_all
  · rename_i h
    have : u.toNat ≠ 0 := fun e => h (BitVec.eq_of_toNat_eq e)
    rw [BitVec.toNat_sub]
    have := u.isLt
    have : (1 : Byte).toNat = 1 := rfl
    omega

/-- The pulse of the tick: the count of `ST` from 1 to 0. -/
theorem tick_beep_eq (s : State) : s.tick.beep = decide (s.st = 1) := by
  have h := countDown_toNat s.st
  have hz : ∀ u : Byte, u = 0 ↔ u.toNat = 0 := fun u => ⟨fun e => by simp [e], fun e => BitVec.eq_of_toNat_eq e⟩
  have h1 : s.st = 1 ↔ s.st.toNat = 1 := ⟨fun e => by simp [e], fun e => BitVec.eq_of_toNat_eq e⟩
  rw [tick_beep, Bool.eq_iff_iff]
  simp only [Bool.and_eq_true, bne_iff_ne, ne_eq, beq_iff_eq, decide_eq_true_eq, hz, h1, h]
  omega

/-! ### Block copies -/

theorem storeBlock_exists (n : Nat) (s : State) : ∃ m, s.storeBlock n = { s with mem := m } := by
  induction n with
  | zero => exact ⟨s.mem, rfl⟩
  | succ k ih =>
    obtain ⟨m, hm⟩ := ih
    refine ⟨(({ s with mem := m } : State).writeByte (s.indexed k) (s.reg (regNumber k))).mem, ?_⟩
    show State.writeByte (s.storeBlock k) _ _ = _
    rw [hm, writeByte_eq]

/-- A block store changes `mem` alone. -/
theorem storeBlock_eq (n : Nat) (s : State) : s.storeBlock n = { s with mem := (s.storeBlock n).mem } := by
  obtain ⟨m, hm⟩ := storeBlock_exists n s
  rw [hm]

theorem storeBlock_drops (n : Nat) (s : State) (a : Nat) : (s.storeBlock n).drops a = s.drops a := by
  rw [storeBlock_eq]
  rfl

/-- The bytes outside a block store read as before. -/
theorem readByte_storeBlock_outside {n : Nat} {s : State} {b : Nat}
    (h : ∀ k < n, b % 4096 ≠ (s.i.toNat + k) % 4096) : (s.storeBlock n).readByte b = s.readByte b := by
  induction n with
  | zero => rfl
  | succ k ih =>
    show State.readByte (State.writeByte _ _ _) _ = _
    rw [readByte_writeByte, if_neg, ih fun j hj => h j (by omega)]
    exact fun e => h k (by omega) e.1

/-- Byte `k` of a block store: the register, unless the store was dropped. -/
theorem readByte_storeBlock {n : Nat} (hn : n ≤ 16) (s : State) (k : Reg) (hk : k.val < n) :
    (s.storeBlock n).readByte (s.i.toNat + k.val) =
      if s.drops (s.i.toNat + k.val) = true then s.readByte (s.i.toNat + k.val) else s.reg k := by
  induction n with
  | zero => omega
  | succ j ih =>
    show State.readByte (State.writeByte _ _ _) _ = _
    rw [readByte_writeByte, storeBlock_drops]
    rcases Nat.lt_or_ge k.val j with hlt | hge
    · rw [if_neg, ih (by omega) hlt]
      rintro ⟨e, -⟩
      simp only [State.indexed] at e
      omega
    · obtain rfl : k.val = j := by omega
      have hr : regNumber k.val = k := by simp [regNumber]
      simp only [State.indexed, hr, true_and]
      by_cases hd : s.drops (s.i.toNat + k.val) = true
      · rw [if_neg (by simp [hd]), if_pos hd]
        exact readByte_storeBlock_outside fun j hj => by omega
      · rw [if_pos (by simpa using hd), if_neg hd]

/-- A block load changes `v` alone. -/
theorem loadBlock_eq (n : Nat) (s : State) : s.loadBlock n = { s with v := (s.loadBlock n).v } := by
  have h : ∃ v, s.loadBlock n = { s with v := v } := by
    induction n with
    | zero => exact ⟨s.v, rfl⟩
    | succ k ih =>
      obtain ⟨v, hv⟩ := ih
      refine ⟨v.set (regNumber k) (s.readByte (s.indexed k)), ?_⟩
      show State.setReg (s.loadBlock k) _ _ = _
      rw [hv]
      rfl
  obtain ⟨v, hv⟩ := h
  rw [hv]

/-- The registers after a block load. -/
theorem reg_loadBlock {n : Nat} (hn : n ≤ 16) (s : State) (k : Reg) :
    (s.loadBlock n).reg k = if k.val < n then s.readByte (s.i.toNat + k.val) else s.reg k := by
  induction n with
  | zero => rfl
  | succ j ih =>
    show State.reg (State.setReg _ _ _) _ = _
    rw [reg_setReg, ih (by omega)]
    have hj : (regNumber j).val = j := by simp only [regNumber, Fin.ofNat]; omega
    by_cases e : k = regNumber j
    · have hkj : k.val = j := by rw [e, hj]
      rw [if_pos e, if_pos (by omega), State.indexed, hkj]
    · rw [if_neg e]
      have : k.val ≠ j := fun h => e (Fin.ext (by rw [h, hj]))
      by_cases hlt : k.val < j
      · rw [if_pos hlt, if_pos (by omega)]
      · rw [if_neg hlt, if_neg (by omega)]

/-! ### The keypad scan -/

theorem firstKey_zero : firstKey 0 = none := by decide

/-- The scan in index order finds the least key that is down. -/
theorem firstKey_eq {keys : BitVec 16} {k : Nat} (hk : k < 16) (down : keys.getLsbD k = true)
    (least : ∀ j < k, keys.getLsbD j = false) : firstKey keys = some k := by
  unfold firstKey
  rw [List.find?_eq_some_iff_getElem]
  refine ⟨down, k, by simpa using hk, by simp, fun j hj => ?_⟩
  simpa using least j hj

/-- The scan finds nothing only where no key is down. -/
theorem firstKey_none {keys : BitVec 16} (h : firstKey keys = none) : keys = 0 := by
  apply BitVec.eq_of_getLsbD_eq
  intro k hk
  simp only [firstKey, List.find?_eq_none, List.mem_range] at h
  simpa using h k hk

end Sys2Proof.Machine
end

