-- ==== Sys2Proof/Laws/Display.lean ====
section
/-! SUPPORT. What the sprite engine does, as one statement about every pixel (43_display.md R131, R132). -/

namespace Sys2Proof.Machine

/-! ### One pixel -/

/-- Toggling a pixel changes that pixel and no other. -/
theorem Pixels.get_flip (fb : Pixels) {p q : Nat} (hp : p < 2048) (hq : q < 2048) :
    Pixels.get (Pixels.flip fb p) q = if q = p then !Pixels.get fb q else Pixels.get fb q := by
  have hrow : ∀ a, a < 2048 → (rowOf a).val = a / 64 := fun a ha => by
    simp only [rowOf, Fin.ofNat]
    omega
  simp only [Pixels.get, Pixels.flip, Fin.getElem_fin, Vector.getElem_set, hrow p hp, hrow q hq]
  by_cases hr : p / 64 = q / 64
  · rw [if_pos hr, BitVec.getLsbD_xor, BitVec.getLsbD_twoPow]
    simp only [hr]
    by_cases he : q = p
    · subst he
      have : q % 64 < 64 := Nat.mod_lt _ (by decide)
      simp [this]
    · have : ¬ (p % 64 = q % 64) := by omega
      simp [he, this]
  · rw [if_neg hr, if_neg (by rintro rfl; exact hr rfl)]

@[simp] theorem Pixels.get_allOff (p : Nat) : Pixels.get Pixels.allOff p = false := by
  simp [Pixels.get, Pixels.allOff]

theorem spritePixel_lt (X Y r c : Nat) : spritePixel X Y r c < 2048 := Nat.mod_lt _ (by decide)

/-- Within one draw no pixel is visited twice (43_display.md R132). -/
theorem spritePixel_inj {X Y r c q d : Nat} (hr : r < 16) (hq : q < 16) (hc : c < 8) (hd : d < 8)
    (h : spritePixel X Y r c = spritePixel X Y q d) : r = q ∧ c = d := by
  simp only [spritePixel] at h
  omega

/-! ### One row -/

/-- The columns of one row: a pixel changes exactly when a set bit falls on it, and a collision is a set bit on a
pixel that was on. -/
theorem drawColumns_spec {X Y r n : Nat} (b : Byte) (d : Canvas) (hr : r < 16) (hn : n ≤ 8) :
    (∀ q < 2048, (Pixels.get (Canvas.drawColumns X Y r b n d).fb q ≠ Pixels.get d.fb q ↔
      ∃ c < n, spriteBit b c = true ∧ q = spritePixel X Y r c)) ∧
    ((Canvas.drawColumns X Y r b n d).hit = true ↔
      d.hit = true ∨ ∃ c < n, spriteBit b c = true ∧ Pixels.get d.fb (spritePixel X Y r c) = true) := by
  induction n with
  | zero => simp [Canvas.drawColumns]
  | succ k ih =>
    obtain ⟨ihp, ihh⟩ := ih (by omega)
    simp only [Canvas.drawColumns]
    by_cases hb : spriteBit b k = true
    · have hfresh : Pixels.get (Canvas.drawColumns X Y r b k d).fb (spritePixel X Y r k) =
          Pixels.get d.fb (spritePixel X Y r k) := by
        by_contra hne
        obtain ⟨c, hc, -, he⟩ := (ihp _ (spritePixel_lt X Y r k)).mp hne
        have := (spritePixel_inj hr hr (by omega) (by omega) he).2
        omega
      rw [if_pos hb]
      constructor
      · intro q hq
        simp only [Canvas.toggle, Pixels.get_flip _ (spritePixel_lt X Y r k) hq]
        by_cases he : q = spritePixel X Y r k
        · rw [if_pos he, he, hfresh]
          exact ⟨fun _ => ⟨k, by omega, hb, rfl⟩, fun _ => by simp⟩
        · rw [if_neg he, ihp q hq]
          constructor
          · rintro ⟨c, hc, h⟩
            exact ⟨c, by omega, h⟩
          · rintro ⟨c, hc, h1, h2⟩
            have : c ≠ k := fun e => he (e ▸ h2)
            exact ⟨c, by omega, h1, h2⟩
      · simp only [Canvas.toggle, Bool.or_eq_true, ihh, hfresh]
        constructor
        · rintro ((h | ⟨c, hc, h⟩) | h)
          · exact .inl h
          · exact .inr ⟨c, by omega, h⟩
          · exact .inr ⟨k, by omega, hb, h⟩
        · rintro (h | ⟨c, hc, h1, h2⟩)
          · exact .inl (.inl h)
          · by_cases e : c = k
            · exact .inr (e ▸ h2)
            · exact .inl (.inr ⟨c, by omega, h1, h2⟩)
    · rw [if_neg hb]
      have step : ∀ P : Nat → Prop, (∃ c < k + 1, spriteBit b c = true ∧ P c) ↔ ∃ c < k, spriteBit b c = true ∧ P c := by
        intro P
        constructor
        · rintro ⟨c, hc, h1, h2⟩
          have : c ≠ k := fun e => hb (e ▸ h1)
          exact ⟨c, by omega, h1, h2⟩
        · rintro ⟨c, hc, h⟩
          exact ⟨c, by omega, h⟩
      exact ⟨fun q hq => by rw [ihp q hq, step], by rw [ihh, step]⟩

/-! ### The whole sprite -/

/-- A set bit of the first `n` rows of the sprite at `I`, drawn at `(X, Y)`, falls on pixel `q`. -/
def State.Covers (s : State) (X Y n q : Nat) : Prop :=
  ∃ r < n, ∃ c < 8, spriteBit (s.readByte (s.indexed r)) c = true ∧ q = spritePixel X Y r c

theorem drawRows_spec (s : State) {X Y n : Nat} (d : Canvas) (hn : n ≤ 16) :
    (∀ q < 2048, (Pixels.get (s.drawRows X Y n d).fb q ≠ Pixels.get d.fb q ↔ s.Covers X Y n q)) ∧
    ((s.drawRows X Y n d).hit = true ↔
      d.hit = true ∨ ∃ q < 2048, s.Covers X Y n q ∧ Pixels.get d.fb q = true) := by
  induction n with
  | zero => simp [State.drawRows, State.Covers]
  | succ k ih =>
    obtain ⟨ihp, ihh⟩ := ih (by omega)
    obtain ⟨hp, hh⟩ := drawColumns_spec (X := X) (Y := Y) (s.readByte (s.indexed k)) (s.drawRows X Y k d)
      (show k < 16 by omega) (Nat.le_refl 8)
    simp only [State.drawRows]
    have hsplit : ∀ q, s.Covers X Y (k + 1) q ↔ s.Covers X Y k q ∨
        ∃ c < 8, spriteBit (s.readByte (s.indexed k)) c = true ∧ q = spritePixel X Y k c := by
      intro q
      constructor
      · rintro ⟨r, hr, h⟩
        rcases Nat.lt_succ_iff_lt_or_eq.mp hr with hlt | rfl
        · exact .inl ⟨r, hlt, h⟩
        · exact .inr h
      · rintro (⟨r, hr, h⟩ | h)
        · exact ⟨r, by omega, h⟩
        · exact ⟨k, by omega, h⟩
    have hfresh : ∀ c < 8, ¬ s.Covers X Y k (spritePixel X Y k c) := by
      rintro c hc ⟨r, hr, e, he, -, h⟩
      have := (spritePixel_inj (by omega) (by omega) hc he h).1
      omega
    have hold : ∀ c < 8, Pixels.get (s.drawRows X Y k d).fb (spritePixel X Y k c) =
        Pixels.get d.fb (spritePixel X Y k c) := by
      intro c hc
      by_contra hne
      exact hfresh c hc ((ihp _ (spritePixel_lt X Y k c)).mp hne)
    constructor
    · intro q hq
      rw [hsplit]
      by_cases hnew : ∃ c < 8, spriteBit (s.readByte (s.indexed k)) c = true ∧ q = spritePixel X Y k c
      · obtain ⟨c, hc, hb, rfl⟩ := hnew
        have h1 := (hp _ hq).mpr ⟨c, hc, hb, rfl⟩
        rw [hold c hc] at h1
        exact ⟨fun _ => .inr ⟨c, hc, hb, rfl⟩, fun _ => h1⟩
      · have h1 : Pixels.get (Canvas.drawColumns X Y k (s.readByte (s.indexed k)) 8 (s.drawRows X Y k d)).fb q =
            Pixels.get (s.drawRows X Y k d).fb q := by
          by_contra hne
          exact hnew ((hp q hq).mp hne)
        rw [h1, ihp q hq]
        exact ⟨.inl, fun h => h.elim id fun h => absurd h hnew⟩
    · rw [hh, ihh]
      constructor
      · rintro ((h | ⟨q, hq, h, hon⟩) | ⟨c, hc, hb, hon⟩)
        · exact .inl h
        · exact .inr ⟨q, hq, (hsplit q).mpr (.inl h), hon⟩
        · exact .inr ⟨_, spritePixel_lt X Y k c, (hsplit _).mpr (.inr ⟨c, hc, hb, rfl⟩), hold c hc ▸ hon⟩
      · rintro (h | ⟨q, hq, h, hon⟩)
        · exact .inl (.inl h)
        · rcases (hsplit q).mp h with h | ⟨c, hc, hb, rfl⟩
          · exact .inl (.inr ⟨q, hq, h, hon⟩)
          · exact .inr ⟨c, hc, hb, by rw [hold c hc]; exact hon⟩

/-- A draw changes exactly the covered pixels, and collides exactly when a covered pixel was on. -/
theorem drawn_spec (s : State) (X Y : Nat) {n : Nat} (hn : n ≤ 16) :
    (∀ q < 2048, (Pixels.get (s.drawn X Y n).fb q ≠ s.pixel q ↔ s.Covers X Y n q)) ∧
    ((s.drawn X Y n).hit = true ↔ ∃ q < 2048, s.Covers X Y n q ∧ s.pixel q = true) := by
  simpa [State.drawn, State.pixel] using drawRows_spec s (X := X) (Y := Y) ⟨s.fb, false⟩ hn

end Sys2Proof.Machine
end

