-- ==== Sys2Proof/Laws/Step.lean ====
section
/-! SUPPORT. The step from outside: what a cycle fetches, and what it does around the instruction. -/

namespace Sys2Proof.Machine

/-! ### The fetch -/

/-- The fetch reads the two bytes at `pc`, the lower address first. -/
theorem fetch_eq_wordAtPc (s : State) : s.fetch = s.wordAtPc := wordOfBytes_eq _ _

/-- Key refresh and pulses do not touch what is fetched. -/
@[simp] theorem cycleStart_fetch (s : State) : s.cycleStart.fetch = s.wordAtPc := fetch_eq_wordAtPc s

/-- The fetch after a word has been placed is that word, at any `pc`. -/
theorem fetch_placeWord (s : State) (w : Word) : (s.placeWord w).fetch = w := by
  have h : ¬ s.pc.toNat % 4096 = (s.pc.toNat + 1) % 4096 := by omega
  show wordOfBytes (((s.pokeByte s.pc.toNat _).pokeByte (s.pc.toNat + 1) _).readByte s.pc.toNat)
    (((s.pokeByte s.pc.toNat _).pokeByte (s.pc.toNat + 1) _).readByte (s.pc.toNat + 1)) = w
  simp only [readByte_pokeByte, if_neg h, if_true]
  exact wordOfBytes_bytes w

/-! ### The cycle -/

theorem halted_iff (s : State) : s.halted = true ↔ s.fault ≠ 0 := by
  simp [State.halted]

theorem step_of_halted {s : State} (h : s.fault ≠ 0) : step s = .next s.lowerPulses := by
  rw [step, if_pos ((halted_iff s).mpr h)]

theorem step_of_running {s : State} (h : s.fault = 0) :
    step s = finishCycle (execWord s.wordAtPc s.cycleStart.advancePc) := by
  simp [step, State.halted, h]

/-- The end of a cycle in which nothing was raised. -/
theorem cycleEnd_of_running {s : State} (h : s.fault = 0) : s.cycleEnd = s.tick.render := by
  simp [State.cycleEnd, State.halted, h]

/-- A cycle whose instruction raised stops after the instruction phase. -/
theorem cycleEnd_of_halted {s : State} (h : s.fault ≠ 0) : s.cycleEnd = s := by
  rw [State.cycleEnd, if_pos ((halted_iff s).mpr h)]

/-- The word placed for a step is the one that step decodes. -/
theorem wordAtPc_withFetchWord (s : State) (nbits w : Nat) : (s.withFetchWord nbits w).wordAtPc = tableWord nbits w := by
  rw [← fetch_eq_wordAtPc]
  exact fetch_placeWord s _

/-- The decoder reads an opcode-table word as the machine's step does. -/
theorem decodeTableWord_eq (nbits w : Nat) : decodeTableWord nbits w = decodeWord (tableWord nbits w) := by
  simp only [decodeTableWord, bytesOfWord, decode, wordOfBytes_bytes]
  cases decodeWord (tableWord nbits w) <;> rfl

/-! ### The canonical form of memory through the shared operations -/

theorem wf_storeBlock {s : State} (n : Nat) (h : Memory.wf s.cfg s.mem = true) :
    Memory.wf s.cfg (s.storeBlock n).mem = true := by
  induction n with
  | zero => exact h
  | succ k ih =>
    have hc : (s.storeBlock k).cfg = s.cfg := by
      rw [storeBlock_eq]
    have := wf_writeByte (s := s.storeBlock k) (s.indexed k) (s.reg (regNumber k)) (by rw [hc]; exact ih)
    rw [hc] at this
    exact this

theorem wf_pokeByte {s : State} (a : Nat) (u : Byte) (h : Memory.wf s.cfg s.mem = true) :
    Memory.wf s.cfg (s.pokeByte a u).mem = true := Memory.wf_write _ _ (Nat.mod_lt _ (by decide)) h

theorem pokeBytes_cfg (us : List Byte) : ∀ (s : State) (a : Nat), (s.pokeBytes a us).cfg = s.cfg := by
  induction us with
  | nil => exact fun _ _ => rfl
  | cons u us ih => exact fun s a => ih _ _

theorem wf_pokeBytes (us : List Byte) : ∀ (s : State) (a : Nat), Memory.wf s.cfg s.mem = true →
    Memory.wf s.cfg (s.pokeBytes a us).mem = true := by
  induction us with
  | nil => exact fun _ _ h => h
  | cons u us ih => exact fun s a h => ih (s.pokeByte a u) (a + 1) (wf_pokeByte a u h)

/-- Storing a list of bytes changes `mem` alone. -/
theorem pokeBytes_eq (us : List Byte) :
    ∀ (s : State) (a : Nat), s.pokeBytes a us = { s with mem := (s.pokeBytes a us).mem } := by
  induction us with
  | nil => exact fun _ _ => rfl
  | cons u us ih => exact fun s a => ih (s.pokeByte a u) (a + 1)

/-- The bytes after a list of bytes has been stored, where the list does not wrap onto itself. -/
theorem readByte_pokeBytes (us : List Byte) : ∀ (s : State) (a b : Nat), us.length ≤ 4096 →
    (∀ k (h : k < us.length), b % 4096 = (a + k) % 4096 → (s.pokeBytes a us).readByte b = us[k]) ∧
    ((∀ k < us.length, b % 4096 ≠ (a + k) % 4096) → (s.pokeBytes a us).readByte b = s.readByte b) := by
  induction us with
  | nil => exact fun _ _ _ _ => ⟨fun k h => absurd h (Nat.not_lt_zero k), fun _ => rfl⟩
  | cons u us ih =>
    intro s a b hl
    simp only [List.length_cons] at hl
    obtain ⟨ih1, ih2⟩ := ih (s.pokeByte a u) (a + 1) b (by omega)
    constructor
    · intro k h e
      simp only [List.length_cons] at h
      cases k with
      | zero =>
        show ((s.pokeByte a u).pokeBytes (a + 1) us).readByte b = u
        rw [ih2 fun j hj => by omega, readByte_pokeByte, if_pos (by simpa using e)]
      | succ j => exact ih1 j (by omega) (by rw [e]; congr 1; omega)
    · intro h
      show ((s.pokeByte a u).pokeBytes (a + 1) us).readByte b = _
      have h0 := h 0 (by simp)
      rw [ih2 fun j hj => by have := h (j + 1) (by simpa using hj); rwa [show a + 1 + j = a + (j + 1) by omega],
        readByte_pokeByte, if_neg (by simpa using h0)]

end Sys2Proof.Machine
end

