-- ==== Sys2Proof/Laws/Exec.lean ====
section
/-! SUPPORT. The meanings that branch, as equations, and the cycle turned inside out: what a next state of a step comes
from. -/

namespace Sys2Proof.Machine

/-! ### The meanings that branch -/

theorem exec_call_of_room {s : State} (nnn : BitVec 12) (h : s.sp.val < 16) :
    exec (.call nnn) s = .next { s with
      stack := s.stack.set s.sp.val s.pc h, sp := ⟨s.sp.val + 1, Nat.succ_lt_succ h⟩, pc := addrOperand nnn } := by
  simp only [exec, execCall, push_of_lt _ h, State.setPc]

theorem exec_call_of_full {s : State} (nnn : BitVec 12) (h : s.sp.val = 16) :
    exec (.call nnn) s = .next (s.raise .stackOverflow) := by
  simp only [exec, execCall, push_of_full _ h]

theorem exec_ret_of_pos {s : State} (k : Fin 16) (h : k.val + 1 = s.sp.val) :
    exec .ret s = .next { s with sp := ⟨k.val, Nat.lt_succ_of_lt k.isLt⟩, pc := s.stack[k] } := by
  simp only [exec, execRet, pop_of_pos k h, State.setPc]

theorem exec_ret_of_empty {s : State} (h : s.sp.val = 0) : exec .ret s = .next (s.raise .stackUnderflow) := by
  simp only [exec, execRet, pop_of_empty h]

theorem exec_ldVxK_of_none {s : State} (x : Reg) (h : s.keys = 0) :
    exec (.ldVxK x) s = .next (s.setPc (s.pc - 2)) := by
  simp only [exec, execLdVxK, h, firstKey_zero]

theorem exec_ldVxK_of_key {s : State} (x : Reg) {k : Nat} (hk : k < 16) (down : s.keys.getLsbD k = true)
    (least : ∀ j < k, s.keys.getLsbD j = false) :
    exec (.ldVxK x) s = .next (s.setReg x (BitVec.ofNat 8 k)) := by
  simp only [exec, execLdVxK, firstKey_eq hk down least]

/-- No meaning stops. -/
theorem exec_next (i : Instr) (s : State) : ∃ t, exec i s = .next t := by
  cases i <;> exact ⟨_, rfl⟩

/-! ### The cycle turned inside out -/

/-- The end of a cycle in which nothing was raised, field by field. -/
theorem cycleEnd_fields {s : State} (h : s.fault = 0) :
    s.cycleEnd = { s with dt := countDown s.dt, st := countDown s.st, beep := decide (s.st = 1),
                          renderNotify := s.dirty, dirty := false } := by
  rw [cycleEnd_of_running h, ← tick_beep_eq]
  rfl

/-- A running machine's next state is the end of a cycle whose instruction phase left `u`. -/
theorem step_cases {s t : State} (h : s.fault = 0) (ht : step s = .next t) :
    ∃ u, t = u.cycleEnd ∧
      ((∃ i, decodeWord s.wordAtPc = some i ∧ exec i s.cycleStart.advancePc = .next u) ∨
        (decodeWord s.wordAtPc = none ∧ u = s.cycleStart.advancePc)) := by
  rw [step_of_running h, execWord] at ht
  split at ht
  · rename_i i hi
    obtain ⟨u, hu⟩ := exec_next i s.cycleStart.advancePc
    rw [hu] at ht
    cases ht
    exact ⟨u, rfl, .inl ⟨i, hi, hu⟩⟩
  · rename_i hi
    cases ht
    exact ⟨_, rfl, .inr ⟨hi, rfl⟩⟩

end Sys2Proof.Machine
end

