-- ==== Sys2Proof/Laws/PerInstr.lean ====
section
/-! SUPPORT. Statements about every instruction as syntax, one lemma per constructor (LAWS.json). -/

namespace Sys2Proof.Laws.RoundTrip

/-- The decoder reads an instruction's own word back (30_encoding.md R65, R69). -/
def Statement (i : Instr) : Prop := i.wellFormed = true → decodeWord (encode i) = some i

theorem cls : Statement .cls := fun _ => by decide

theorem ret : Statement .ret := fun _ => by decide

theorem jp (nnn : BitVec 12) : Statement (.jp nnn) := by
  intro _
  simp [decodeWord, encode]

theorem call (nnn : BitVec 12) : Statement (.call nnn) := by
  intro _
  simp [decodeWord, encode]

theorem ldI (nnn : BitVec 12) : Statement (.ldI nnn) := by
  intro _
  simp [decodeWord, encode]

theorem jpV0 (nnn : BitVec 12) : Statement (.jpV0 nnn) := by
  intro _
  simp [decodeWord, encode]

theorem seImm (x : Reg) (nn : Byte) : Statement (.seImm x nn) := by
  intro _
  simp [decodeWord, encode]

theorem sneImm (x : Reg) (nn : Byte) : Statement (.sneImm x nn) := by
  intro _
  simp [decodeWord, encode]

theorem ldImm (x : Reg) (nn : Byte) : Statement (.ldImm x nn) := by
  intro _
  simp [decodeWord, encode]

theorem addImm (x : Reg) (nn : Byte) : Statement (.addImm x nn) := by
  intro _
  simp [decodeWord, encode]

theorem rnd (x : Reg) (nn : Byte) : Statement (.rnd x nn) := by
  intro _
  simp [decodeWord, encode]

theorem seReg (x y : Reg) : Statement (.seReg x y) := by
  intro _
  simp [decodeWord, encode, Fin.ext_iff]

theorem sneReg (x y : Reg) : Statement (.sneReg x y) := by
  intro _
  simp [decodeWord, encode, Fin.ext_iff]

theorem ldReg (x y : Reg) : Statement (.ldReg x y) := by
  intro _
  simp [decodeWord, decodeFamily8, encode]

theorem orReg (x y : Reg) : Statement (.orReg x y) := by
  intro _
  simp [decodeWord, decodeFamily8, encode]

theorem andReg (x y : Reg) : Statement (.andReg x y) := by
  intro _
  simp [decodeWord, decodeFamily8, encode]

theorem xorReg (x y : Reg) : Statement (.xorReg x y) := by
  intro _
  simp [decodeWord, decodeFamily8, encode]

theorem addReg (x y : Reg) : Statement (.addReg x y) := by
  intro _
  simp [decodeWord, decodeFamily8, encode]

theorem subReg (x y : Reg) : Statement (.subReg x y) := by
  intro _
  simp [decodeWord, decodeFamily8, encode]

theorem shr (x y : Reg) : Statement (.shr x y) := by
  intro _
  simp [decodeWord, decodeFamily8, encode]

theorem subnReg (x y : Reg) : Statement (.subnReg x y) := by
  intro _
  simp [decodeWord, decodeFamily8, encode]

theorem shl (x y : Reg) : Statement (.shl x y) := by
  intro _
  simp [decodeWord, decodeFamily8, encode]

theorem drw (x y n : Fin 16) : Statement (.drw x y n) := by
  intro _
  simp [decodeWord, encode, Fin.ext_iff]

theorem skp (x : Reg) : Statement (.skp x) := by
  intro _
  simp [decodeWord, decodeFamilyE, encode]

theorem sknp (x : Reg) : Statement (.sknp x) := by
  intro _
  simp [decodeWord, decodeFamilyE, encode]

theorem ldVxDt (x : Reg) : Statement (.ldVxDt x) := by
  intro _
  simp [decodeWord, decodeFamilyF, encode]

theorem ldVxK (x : Reg) : Statement (.ldVxK x) := by
  intro _
  simp [decodeWord, decodeFamilyF, encode]

theorem ldDtVx (x : Reg) : Statement (.ldDtVx x) := by
  intro _
  simp [decodeWord, decodeFamilyF, encode]

theorem ldStVx (x : Reg) : Statement (.ldStVx x) := by
  intro _
  simp [decodeWord, decodeFamilyF, encode]

theorem addI (x : Reg) : Statement (.addI x) := by
  intro _
  simp [decodeWord, decodeFamilyF, encode]

theorem ldF (x : Reg) : Statement (.ldF x) := by
  intro _
  simp [decodeWord, decodeFamilyF, encode]

theorem ldB (x : Reg) : Statement (.ldB x) := by
  intro _
  simp [decodeWord, decodeFamilyF, encode]

theorem storeRegs (x : Reg) : Statement (.storeRegs x) := by
  intro _
  simp [decodeWord, decodeFamilyF, encode]

theorem loadRegs (x : Reg) : Statement (.loadRegs x) := by
  intro _
  simp [decodeWord, decodeFamilyF, encode]

theorem sys (nnn : BitVec 12) : Statement (.sys nnn) := by
  intro h
  simp only [Instr.wellFormed, Bool.and_eq_true, bne_iff_ne, ne_eq] at h
  have ne : ∀ k : BitVec 12, nnn ≠ k → wordA 0x0 nnn ≠ wordA 0x0 k := fun k hk e =>
    hk (by rw [← fieldNNN_wordA 0x0 nnn, e, fieldNNN_wordA])
  have h1 : ¬ wordA 0x0 nnn = 0x00E0 := ne 0x0E0 h.1
  have h2 : ¬ wordA 0x0 nnn = 0x00EE := ne 0x0EE h.2
  have h0 : decodeWord (encode (.sys nnn)) = some (decodeFamily0 (wordA 0x0 nnn)) := by simp [decodeWord, encode]
  rw [h0, decodeFamily0, if_neg h1, if_neg h2, fieldNNN_wordA]

end Sys2Proof.Laws.RoundTrip
end

