-- ==== Sys2Proof/Tests/Slice0.lean ====
section
/-! SUPPORT. Tests. Expected values are those of spec/95_test_vectors.md, cited by vector, or words written out from the
encoding column of 30_encoding.md R69. The theorems named `witness_…` show a concrete state and operands that meet the
premises of the obligation they name, clause by clause. -/

namespace Sys2Proof.Tests

open Sys2Proof.Machine

/-! ### Well-formedness: the one check refuses its two ill-formed terms (30_encoding.md R68) -/

theorem test_wf_refuses_sys_0E0 : (Instr.sys 0x0E0).wellFormed = false := by decide

theorem test_wf_refuses_sys_0EE : (Instr.sys 0x0EE).wellFormed = false := by decide

theorem test_wf_takes_the_neighbours :
    (Instr.sys 0x0E1).wellFormed = true ∧ (Instr.sys 0x0EF).wellFormed = true ∧ (Instr.sys 0x000).wellFormed = true := by
  decide

/-! ### Decoding: a word for every constructor, its nibbles (for `nn`, its bits) as R69 lays them out -/

theorem test_decode_system :
    decodeWord 0b0000000011100000 = some .cls ∧ decodeWord 0b0000000011101110 = some .ret ∧
    decodeWord 0b0000000100100011 = some (.sys 0x123) ∧ decodeWord 0b0000000000000000 = some (.sys 0) ∧
    decodeWord 0b0000000011100001 = some (.sys 0x0E1) := by decide

theorem test_decode_address_format :
    decodeWord 0b0001101010111100 = some (.jp 0xABC) ∧ decodeWord 0b0010001100000000 = some (.call 0x300) ∧
    decodeWord 0b1010001011110000 = some (.ldI 0x2F0) ∧ decodeWord 0b1011111111111111 = some (.jpV0 0xFFF) := by decide

theorem test_decode_immediate_format :
    decodeWord 0b0011001100101010 = some (.seImm 3 0x2A) ∧ decodeWord 0b0100001100101010 = some (.sneImm 3 0x2A) ∧
    decodeWord 0b0110101000101111 = some (.ldImm 0xA 0x2F) ∧ decodeWord 0b0111000100000010 = some (.addImm 1 2) ∧
    decodeWord 0b1100001100001111 = some (.rnd 3 0x0F) := by decide

theorem test_decode_register_format :
    decodeWord 0b0101000100100000 = some (.seReg 1 2) ∧ decodeWord 0b1001000100100000 = some (.sneReg 1 2) ∧
    decodeWord 0b1000000100100000 = some (.ldReg 1 2) ∧ decodeWord 0b1000000100100001 = some (.orReg 1 2) ∧
    decodeWord 0b1000000100100010 = some (.andReg 1 2) ∧ decodeWord 0b1000000100100011 = some (.xorReg 1 2) ∧
    decodeWord 0b1000000100100100 = some (.addReg 1 2) ∧ decodeWord 0b1000000100100101 = some (.subReg 1 2) ∧
    decodeWord 0b1000000100100110 = some (.shr 1 2) ∧ decodeWord 0b1000000100100111 = some (.subnReg 1 2) ∧
    decodeWord 0b1000000100101110 = some (.shl 1 2) := by decide

theorem test_decode_sprite_format : decodeWord 0b1101111100010101 = some (.drw 0xF 1 5) := by decide

theorem test_decode_selector_format :
    decodeWord 0b1110010010011110 = some (.skp 4) ∧ decodeWord 0b1110010010100001 = some (.sknp 4) ∧
    decodeWord 0b1111010100000111 = some (.ldVxDt 5) ∧ decodeWord 0b1111001100001010 = some (.ldVxK 3) ∧
    decodeWord 0b1111010100010101 = some (.ldDtVx 5) ∧ decodeWord 0b1111010100011000 = some (.ldStVx 5) ∧
    decodeWord 0b1111001000011110 = some (.addI 2) ∧ decodeWord 0b1111000000101001 = some (.ldF 0) ∧
    decodeWord 0b1111000100110011 = some (.ldB 1) ∧ decodeWord 0b1111111101010101 = some (.storeRegs 0xF) ∧
    decodeWord 0b1111000101100101 = some (.loadRegs 1) := by decide

/-- F9 to F12 and 30_encoding.md R67. -/
theorem test_decode_unrecognized :
    decodeWord 0x5121 = none ∧ decodeWord 0x9121 = none ∧ decodeWord 0x8128 = none ∧ decodeWord 0x812F = none ∧
    decodeWord 0x812D = none ∧ decodeWord 0xE400 = none ∧ decodeWord 0xF3FF = none ∧ decodeWord 0xF300 = none := by
  decide

/-- 20_memory.md R45: the first byte is the high one. -/
theorem test_decode_bytes : decode [0x6A, 0x2F, 0x77] = .ok (.ldImm 0xA 0x2F, [0x77]) := by decide

theorem test_decodeTableWord :
    decodeTableWord 16 0xD015 = some (.drw 0 1 5) ∧ decodeTableWord 16 0x00EE = some .ret ∧
    decodeTableWord 16 0x5121 = none := by decide

/-! ### One cycle on a small state -/

/-- The start of a vector: reset, `keys_in = 0`, `rnd_in = 0xB7`. -/
def base : State := { State.reset with keysIn := ⟨[0], 0⟩, rndIn := ⟨[0xB7], 0⟩ }

/-- A state with registers set. -/
def withRegs (s : State) (l : List (Reg × Byte)) : State := l.foldl (fun t p => t.setReg p.1 p.2) s

/-- One cycle with the word placed at `pc`. -/
def cycle (w : Word) (s : State) : State :=
  match step (s.placeWord w) with
  | .next t => t
  | .fault _ => s
  | .refused _ => s

/-- The buffer with the given rows and every other pixel off. -/
def rows (l : List (Reg × BitVec 64)) : Pixels :=
  l.foldl (fun fb p => fb.set p.1.val p.2 (by omega)) Pixels.allOff

/-- F1 and C3: the fetch is big-endian, `JP` sets `pc`. -/
theorem test_fetch : (cycle 0x6A2F base).reg 0xA = 0x2F ∧ (cycle 0x6A2F base).pc = 0x0202 := by decide

/-- F3: a fetch across the end of the store. -/
theorem test_fetch_wraps :
    (cycle 0x6AF0 { base with pc := 0x0FFF }).pc = 0x1001 ∧ (cycle 0x6AF0 { base with pc := 0x0FFF }).reg 0xA = 0xF0 := by
  decide

/-- F6 and F9: no-operations. -/
theorem test_sys_and_unrecognized :
    (cycle 0x0123 { base with dt := 2, st := 2 }).pc = 0x0202 ∧ (cycle 0x0123 { base with dt := 2, st := 2 }).dt = 1 ∧
    (cycle 0x5121 (withRegs base [(1, 7), (2, 7)])).pc = 0x0202 := by decide

/-- C1. -/
theorem test_ret :
    (cycle 0x00EE { base with pc := 0x300, sp := 1, stack := base.stack.set 0 0x0204 }).pc = 0x0204 := by decide

/-- C2. -/
theorem test_ret_underflow :
    (cycle 0x00EE { base with pc := 0x300 }).fault = 2 ∧ (cycle 0x00EE { base with pc := 0x300 }).pc = 0x0302 := by decide

theorem test_jp : (cycle 0x1ABC base).pc = 0x0ABC := by decide

/-- C5. -/
theorem test_call :
    (cycle 0x2300 { base with pc := 0x202, sp := 15 }).pc = 0x0300 ∧
    (cycle 0x2300 { base with pc := 0x202, sp := 15 }).stack[15] = 0x0204 := by decide

/-- C6: no tick in the faulting cycle. -/
theorem test_call_overflow :
    (cycle 0x2300 { base with pc := 0x202, sp := 16, st := 1 }).fault = 1 ∧
    (cycle 0x2300 { base with pc := 0x202, sp := 16, st := 1 }).st = 1 := by decide

/-- C18: the halted machine. -/
theorem test_halted :
    step { base with fault := 1, dt := 5, st := 1, beep := true } =
      .next { base with fault := 1, dt := 5, st := 1, beep := false } := by rfl

/-- C7, C8. -/
theorem test_seImm :
    (cycle 0x332A (withRegs base [(3, 0x2A)])).pc = 0x0204 ∧ (cycle 0x332A (withRegs base [(3, 0x2B)])).pc = 0x0202 := by
  decide

/-- F5: the skip wraps modulo 65536. -/
theorem test_skip_wraps : (cycle 0x3000 { base with pc := 0xFFFC }).pc = 0x0000 := by decide

/-- C9, C10. -/
theorem test_sneImm :
    (cycle 0x432A (withRegs base [(3, 0x2A)])).pc = 0x0202 ∧ (cycle 0x432A base).pc = 0x0204 := by decide

/-- C11, C12. -/
theorem test_seReg :
    (cycle 0x5120 (withRegs base [(1, 7), (2, 7)])).pc = 0x0204 ∧
    (cycle 0x5120 (withRegs base [(1, 7), (2, 8)])).pc = 0x0202 := by decide

/-- C14, C15. -/
theorem test_sneReg :
    (cycle 0x9120 (withRegs base [(1, 7), (2, 8)])).pc = 0x0204 ∧
    (cycle 0x9120 (withRegs base [(1, 7), (2, 7)])).pc = 0x0202 := by decide

/-- C17. -/
theorem test_jpV0 : (cycle 0xBFFF (withRegs base [(0, 3)])).pc = 0x1002 := by decide

/-- A2, A3 and E3: no flag. -/
theorem test_addImm :
    (cycle 0x7102 (withRegs base [(1, 0xFF)])).reg 1 = 0x01 ∧ (cycle 0x7102 (withRegs base [(1, 0xFF)])).reg 15 = 0 ∧
    (cycle 0x7F01 (withRegs base [(15, 0xFF)])).reg 15 = 0 := by decide

/-- A4. -/
theorem test_ldReg : (cycle 0x8120 (withRegs base [(2, 0x5C)])).reg 1 = 0x5C := by decide

/-- A5: VF is left alone. -/
theorem test_orReg :
    (cycle 0x8121 (withRegs base [(1, 0xF0), (2, 0x0F), (15, 0x77)])).reg 1 = 0xFF ∧
    (cycle 0x8121 (withRegs base [(1, 0xF0), (2, 0x0F), (15, 0x77)])).reg 15 = 0x77 := by decide

/-- A6. -/
theorem test_andReg : (cycle 0x8122 (withRegs base [(1, 0xF0), (2, 0x3C)])).reg 1 = 0x30 := by decide

/-- A7. -/
theorem test_xorReg : (cycle 0x8123 (withRegs base [(1, 0xF0), (2, 0x3C)])).reg 1 = 0xCC := by decide

/-- E4. -/
theorem test_addReg :
    (cycle 0x8124 (withRegs base [(1, 0xF0), (2, 0x20)])).reg 1 = 0x10 ∧
    (cycle 0x8124 (withRegs base [(1, 0xF0), (2, 0x20)])).reg 15 = 1 := by decide

/-- A11, A12 and A13: VF as destination keeps the flag, VF as source is read first. -/
theorem test_addReg_VF :
    (cycle 0x8F14 (withRegs base [(15, 0xFF), (1, 1)])).reg 15 = 1 ∧
    (cycle 0x8F14 (withRegs base [(15, 0x10), (1, 0x20)])).reg 15 = 0 ∧
    (cycle 0x81F4 (withRegs base [(1, 1), (15, 0xFF)])).reg 1 = 0 := by decide

/-- A15 and A17. -/
theorem test_subReg :
    (cycle 0x8125 (withRegs base [(1, 5), (2, 7), (15, 1)])).reg 1 = 0xFE ∧
    (cycle 0x8125 (withRegs base [(1, 5), (2, 7), (15, 1)])).reg 15 = 0 ∧
    (cycle 0x8125 (withRegs base [(1, 7), (2, 7)])).reg 15 = 1 := by decide

/-- E5 (a) and A24. -/
theorem test_shr :
    (cycle 0x8126 (withRegs base [(1, 3), (2, 0xFF)])).reg 1 = 1 ∧
    (cycle 0x8126 (withRegs base [(1, 3), (2, 0xFF)])).reg 15 = 1 ∧
    (cycle 0x8FF6 (withRegs base [(15, 3)])).reg 15 = 1 := by decide

/-- A26 and A27. -/
theorem test_subnReg :
    (cycle 0x8127 (withRegs base [(1, 5), (2, 7)])).reg 1 = 2 ∧
    (cycle 0x8127 (withRegs base [(1, 5), (2, 7)])).reg 15 = 1 ∧
    (cycle 0x8127 (withRegs base [(1, 7), (2, 5)])).reg 1 = 0xFE := by decide

/-- E5 (b). -/
theorem test_shl :
    (cycle 0x812E (withRegs base [(1, 0x81), (2, 0xFF)])).reg 1 = 2 ∧
    (cycle 0x812E (withRegs base [(1, 0x81), (2, 0xFF)])).reg 15 = 1 := by decide

/-- A33: the sample under the mask; the port moves on by one sample. -/
theorem test_rnd : (cycle 0xC30F base).reg 3 = 0x07 ∧ (cycle 0xC30F base).rndIn = ⟨[], 1⟩ := by decide

/-- M1. -/
theorem test_ldI : (cycle 0xA2F0 base).i = 0x02F0 := by decide

/-- M3 and M4. -/
theorem test_addI :
    (cycle 0xF21E (withRegs { base with i := 0x0FFF } [(2, 1)])).i = 0 ∧
    (cycle 0xF21E (withRegs { base with i := 0x0F80 } [(2, 0xFF)])).i = 0x007F := by decide

/-- E10 and M6. -/
theorem test_ldF :
    (cycle 0xF029 (withRegs base [(0, 0x0A)])).i = 0x0032 ∧ (cycle 0xF029 (withRegs base [(0, 0xFF)])).i = 0x04FB := by
  decide

/-- E8 (a), whose word at `pc` also stands in memory. -/
theorem test_ldB :
    (cycle 0xF133 (withRegs { base with i := 0x0300 } [(1, 0xFF)])).mem =
      [(0x200, 0xF1), (0x201, 0x33), (0x300, 2), (0x301, 5), (0x302, 5)] := by decide

/-- M12: the two bytes in the font region are dropped, the third is stored. -/
theorem test_ldB_font :
    (cycle 0xF133 (withRegs { base with i := 0x004E } [(1, 0x7B)])).mem =
      [(0x050, 3), (0x200, 0xF1), (0x201, 0x33)] := by decide

/-- M13: `V3` is not stored. -/
theorem test_storeRegs :
    (cycle 0xF255 (withRegs { base with i := 0x0300 } [(0, 0x11), (1, 0x22), (2, 0x33), (3, 0x44)])).mem =
      [(0x200, 0xF2), (0x201, 0x55), (0x300, 0x11), (0x301, 0x22), (0x302, 0x33)] ∧
    (cycle 0xF255 { base with i := 0x0300 }).i = 0x0303 := by decide

/-- M15: a block across the end of the store into the font region. -/
theorem test_storeRegs_wraps :
    (cycle 0xFF55 (withRegs { base with i := 0x0FF8 } [(7, 0xA7), (8, 0xA8)])).mem =
      [(0x200, 0xFF), (0x201, 0x55), (0xFFF, 0xA7)] ∧
    (cycle 0xFF55 { base with i := 0x0FF8 }).i = 0x0008 := ⟨rfl, rfl⟩

/-- M16: `V2` is not loaded. -/
theorem test_loadRegs :
    (cycle 0xF165 ({ base with i := 0x0300 }.pokeBytes 0x300 [0xAA, 0xBB, 0xCC])).v =
      #v[0xAA, 0xBB, 0, 0, 0, 0, 0, 0, 0, 0, 0, 0, 0, 0, 0, 0] ∧
    (cycle 0xF165 { base with i := 0x0300 }).i = 0x0302 := by decide

/-- M18: the second byte comes from address 0. -/
theorem test_loadRegs_wraps :
    (cycle 0xF165 ({ base with i := 0x0FFF }.pokeBytes 0xFFF [0x5A])).reg 0 = 0x5A ∧
    (cycle 0xF165 { base with i := 0x0FFF }).reg 1 = 0xF0 := by decide

/-- D1. -/
theorem test_cls :
    (cycle 0x00E0 { base with fb := rows [(0, 0x21)] }).fb = Pixels.allOff ∧
    (cycle 0x00E0 base).renderNotify = true ∧ (cycle 0x00E0 base).dirty = false := by decide

/-- D3: the sprite runs on into the next row. -/
theorem test_drw_flattened :
    (cycle 0xD121 (withRegs ({ base with i := 0x0300 }.pokeBytes 0x300 [0xFF]) [(1, 60)])).fb =
      rows [(0, 0xF000000000000000), (1, 0xF)] := by decide

/-- D8: a collision on one pixel, the next pixel turned on. -/
theorem test_drw_collision :
    (cycle 0xD121 ({ base with i := 0x0300, fb := rows [(0, 1)] }.pokeBytes 0x300 [0xC0])).fb = rows [(0, 2)] ∧
    (cycle 0xD121 ({ base with i := 0x0300, fb := rows [(0, 1)] }.pokeBytes 0x300 [0xC0])).reg 15 = 1 := by decide

/-- K1 and K3. -/
theorem test_skp :
    (cycle 0xE49E (withRegs { base with keysIn := ⟨[0x0020], 0⟩ } [(4, 0x05)])).pc = 0x0204 ∧
    (cycle 0xE49E (withRegs { base with keysIn := ⟨[0xFFDF], 0⟩ } [(4, 0x05)])).pc = 0x0202 ∧
    (cycle 0xE49E (withRegs { base with keysIn := ⟨[0x0020], 0⟩ } [(4, 0x15)])).pc = 0x0204 := by decide

/-- K4 and K5. -/
theorem test_sknp :
    (cycle 0xE4A1 (withRegs { base with keysIn := ⟨[0x0020], 0⟩ } [(4, 0x05)])).pc = 0x0202 ∧
    (cycle 0xE4A1 (withRegs base [(4, 0x05)])).pc = 0x0204 := by decide

/-- K6. -/
theorem test_ldVxK_waits :
    (cycle 0xF30A (withRegs { base with dt := 4 } [(3, 0x77)])).pc = 0x0200 ∧
    (cycle 0xF30A (withRegs { base with dt := 4 } [(3, 0x77)])).reg 3 = 0x77 ∧
    (cycle 0xF30A (withRegs { base with dt := 4 } [(3, 0x77)])).dt = 3 := by decide

/-- K7. -/
theorem test_ldVxK_least :
    (cycle 0xF30A { base with keysIn := ⟨[0x0088], 0⟩ }).reg 3 = 3 ∧
    (cycle 0xF30A { base with keysIn := ⟨[0x0088], 0⟩ }).pc = 0x0202 := by decide

/-- K10. -/
theorem test_ldVxDt : (cycle 0xF507 { base with dt := 9 }).reg 5 = 9 ∧ (cycle 0xF507 { base with dt := 9 }).dt = 8 := by
  decide

/-- K12: the tick follows in the same cycle. -/
theorem test_ldDtVx : (cycle 0xF515 (withRegs base [(5, 0x3C)])).dt = 59 := by decide

/-- K15 and K17. -/
theorem test_ldStVx :
    (cycle 0xF518 (withRegs base [(5, 1)])).beep = true ∧ (cycle 0xF518 (withRegs base [(5, 1)])).st = 0 ∧
    (cycle 0xF518 { base with st := 5 }).beep = false := by decide

/-- The word that `withFetchWord` stores is the word `step` runs. -/
theorem test_withFetchWord :
    step (base.withFetchWord 16 0x7102) = finishCycle (exec (.addImm 1 2) (base.withFetchWord 16 0x7102).cycleStart.advancePc) := by
  rw [step_of_running (by decide), wordAtPc_withFetchWord]
  rfl

/-! ### Witnesses of the premises of the obligations -/

/-- A state whose next fetch is the given word. -/
def fetching (w : Word) : State := base.placeWord w

theorem witness_DecodeOfEncodeIsTheInstruction :
    (Instr.drw 15 1 5).wellFormed = true ∧ (Instr.sys 0xFFF).wellFormed = true := by decide

theorem witness_EncodeOfDecodeIsTheWord : decodeWord 0x8FF6 = some (.shr 15 15) := by decide

/-- A word of each kind: of a row, of `SYS`, of no row. -/
theorem witness_DecoderAgreesWithTheOpcodeTable :
    decodeWord 0x00E0 = some .cls ∧ Instr.cls.row ∈ opcodeRows ∧ Instr.cls.row.covers 0x00E0 = true ∧
    decodeWord 0x00E1 = some (.sys 0x0E1) ∧ (Instr.sys 0x0E1).row = sysRow ∧ decodeWord 0x5121 = none := by decide

/-- Both selectors, with `y` at both ends. -/
theorem witness_ShiftWordsExecuteAlikeForEveryY :
    decodeWord (0x8#4 ++ (0x1#4 ++ (0x0#4 ++ 0x6#4))) = some (.shr 1 0) ∧
    decodeWord (0x8#4 ++ (0x1#4 ++ (0xF#4 ++ 0xE#4))) = some (.shl 1 15) := by decide

/-- A word of no row, a `SYS` word and their recognized neighbours. -/
theorem witness_AnyUnrecognizedWordServesAsNoOperation :
    isUnrecognized 0x5121 = true ∧ isUnrecognized 0x00E1 = true ∧ isUnrecognized 0x00E0 = false ∧
    isUnrecognized 0x5120 = false := by decide

theorem witness_StepRunsTheDecodedInstruction :
    (fetching 0x2300).fault = 0 ∧ decodeWord (fetching 0x2300).wordAtPc = some (.call 0x300) ∧
    (fetching 0x5121).fault = 0 ∧ decodeWord (fetching 0x5121).wordAtPc = none := by decide

theorem witness_HaltedMachineChangesNothing :
    ({ base with fault := 1 } : State).fault ≠ 0 ∧ ({ base with fault := 2 } : State).fault ≠ 0 := by decide

/-- A `CALL` at 16 and at 15 live entries, a `RET` at 0 and at 1. -/
theorem witness_OnlyTheTwoStackFaultsHalt :
    (∃ t, step { fetching 0x2300 with sp := 16 } = .next t ∧ t.fault = 1) ∧
    (∃ t, step { fetching 0x2300 with sp := 15 } = .next t ∧ t.fault = 0) ∧
    (∃ t, step { fetching 0x00EE with sp := 0 } = .next t ∧ t.fault = 2) ∧
    ∃ t, step { fetching 0x00EE with sp := 1 } = .next t ∧ t.fault = 0 :=
  ⟨⟨_, rfl, rfl⟩, ⟨_, rfl, rfl⟩, ⟨_, rfl, rfl⟩, ⟨_, rfl, rfl⟩⟩

/-- A cycle that sets `DT`, one that sets `ST`, and one that sets neither. -/
theorem witness_TimersTickOncePerCycle :
    (∃ t, step (fetching 0xF515) = .next t ∧ t.fault = 0 ∧ decodeWord (fetching 0xF515).wordAtPc = some (.ldDtVx 5)) ∧
    (∃ t, step (fetching 0xF518) = .next t ∧ t.fault = 0 ∧ decodeWord (fetching 0xF518).wordAtPc = some (.ldStVx 5)) ∧
    ∃ t, step { fetching 0x0123 with st := 1 } = .next t ∧ t.fault = 0 ∧ t.beep = true :=
  ⟨⟨_, rfl, rfl, by decide⟩, ⟨_, rfl, rfl, by decide⟩, ⟨_, rfl, rfl, rfl⟩⟩

/-- A cycle that draws and a cycle that does not. -/
theorem witness_RenderNotifyFollowsClearAndDraw :
    (fetching 0x00E0).dirty = false ∧ (∃ t, step (fetching 0x00E0) = .next t ∧ t.renderNotify = true) ∧
    ∃ t, step (fetching 0x6A2F) = .next t ∧ t.renderNotify = false := ⟨rfl, ⟨_, rfl, rfl⟩, ⟨_, rfl, rfl⟩⟩

/-- A port with a snapshot fixed, and one with none. -/
theorem witness_KeysAreTheHostsSnapshot :
    (∃ t, step { fetching 0x6A2F with keysIn := ⟨[0x0088, 0x0001], 4⟩ } = .next t ∧ t.keys = 0x0088) ∧
    ∃ t, step { fetching 0x6A2F with keysIn := ⟨[], 4⟩ } = .next t ∧ t.keys = Config.freeKeys 4 :=
  ⟨⟨_, rfl, rfl⟩, ⟨_, rfl, rfl⟩⟩

/-- Two counters that agree modulo 4096, the second at the last byte of the store. -/
theorem witness_FetchUsesTheLowTwelveBitsOfPc :
    (0x1200 : Word).toNat % 4096 = base.pc.toNat % 4096 ∧
    (0xFFFF : Word).toNat % 4096 = ({ base with pc := 0x0FFF } : State).pc.toNat % 4096 := by decide

/-- The longest image is accepted. -/
theorem witness_BootLoadsFontAndProgram :
    (∃ s, State.boot Config.default [0x12, 0x00] = some s) ∧
    (∃ s, State.boot Config.default (List.replicate 3584 0x12) = some s) ∧
    State.boot Config.default (List.replicate 3585 0x12) = none :=
  ⟨⟨_, rfl⟩, ⟨_, if_pos (by rw [List.length_replicate])⟩, if_neg (by rw [List.length_replicate]; decide)⟩

/-- A halted machine reset with an image. -/
theorem witness_ResetClearsAHaltedMachine :
    ([0x00, 0xE0] : List Byte).length ≤ 3584 ∧
    ∃ t, State.assertReset { base with fault := 1, pc := 0x0ABC } Config.default [0x00, 0xE0] = some t ∧
      t.fault = 0 ∧ t.pc = 0x0200 := ⟨by decide, _, rfl, rfl, rfl⟩

/-- A legal state that reset does not leave: halted, one byte written, `I` at its largest. -/
theorem witness_LegalStatesStayLegal :
    ∃ s t : State, s.Legal ∧ step s = .next t ∧ s.fault = 2 := by
  refine ⟨{ base with mem := [(0x300, 5)], i := 0x0FFF, fault := 2 }, _,
    ⟨by decide, by decide, fun _ a h => ?_, rfl, by decide, fun _ => ⟨rfl, rfl⟩⟩, rfl, rfl⟩
  show Memory.read Config.default [(0x300, 5)] (a % 4096) = _
  rw [Nat.mod_eq_of_lt (by omega), Memory.read, if_neg (by omega), Memory.read, Memory.unlisted, dif_pos h]
  rfl

theorem witness_BootIsLegal : ∃ s, State.boot ⟨Config.defaultFont, .allow⟩ [0x00, 0xE0] = some s := ⟨_, rfl⟩

/-- A `CALL` at 16 and a `RET` at 0. -/
theorem witness_InstructionsCompleteAndRaiseOnlyStackFaults :
    ({ base with sp := 16 } : State).sp.val = 16 ∧ base.sp.val = 0 := by decide

/-- `LD Vx, K` waiting writes no register; a block load to `V14` does not write `VF`. -/
theorem witness_GeneralRegistersChangeOnlyAsTabled :
    (∃ t, exec (.ldVxK 3) base = .next t ∧ (Instr.ldVxK 3).writesReg base 3 = false) ∧
    ∃ t, exec (.loadRegs 14) base = .next t ∧ (Instr.loadRegs 14).writesReg base 15 = false :=
  ⟨⟨_, rfl, rfl⟩, ⟨_, rfl, rfl⟩⟩

theorem witness_FlagWritersLeaveZeroOrOne :
    (Instr.addReg 15 1).writesFlag = true ∧ (∃ t, exec (.addReg 15 1) base = .next t) ∧
    (Instr.drw 15 1 0).writesFlag = true ∧ ∃ t, exec (.drw 15 1 0) base = .next t :=
  ⟨rfl, ⟨_, rfl⟩, rfl, ⟨_, rfl⟩⟩

/-- One instruction that meets the premise of every clause at once. -/
theorem witness_EachKindOfStateHasItsWriters :
    (∃ t, exec (.ldImm 1 2) base = .next t) ∧ (Instr.ldImm 1 2).transfersControl = false ∧
    (Instr.ldImm 1 2).usesStack = false ∧ (Instr.ldImm 1 2).writesIndex = false ∧ (Instr.ldImm 1 2).draws = false ∧
    (∀ x, Instr.ldImm 1 2 ≠ .ldDtVx x) ∧ (∀ x, Instr.ldImm 1 2 ≠ .ldStVx x) ∧ ∀ x nn, Instr.ldImm 1 2 ≠ .rnd x nn :=
  ⟨⟨_, rfl⟩, rfl, rfl, rfl, rfl, nofun, nofun, nofun⟩

/-- A block store that wraps into the font region. -/
theorem witness_MemoryChangesOnlyInTheStoredBytes :
    (∃ t, exec (.storeRegs 15) { base with i := 0x0FF8 } = .next t) ∧ base.cfg.fontWritePolicy = .ignore :=
  ⟨⟨_, rfl⟩, rfl⟩

/-- The last address of the font region and the first one above it, under both policies. -/
theorem witness_LoadReturnsTheLatestStore :
    (base.cfg.fontWritePolicy = .ignore ∧ 0x104F % 4096 < 80) ∧
    (base.cfg.fontWritePolicy = .ignore ∧ 80 ≤ 0x0050 % 4096) ∧
    ({ base with cfg := ⟨Config.defaultFont, .allow⟩ } : State).cfg.fontWritePolicy = .allow := by decide

/-- The lowest and the highest counter the statement admits. -/
theorem witness_StoresAreSeenByTheNextFetch :
    (Instr.ldImm 0 0x2A).wellFormed = true ∧ encodeBytes (.ldImm 0 0x2A) = [0x60, 0x2A] ∧
    (80 ≤ (0x0050 : Word).toNat % 4096 ∧ (0x0050 : Word).toNat % 4096 < 4095) ∧
    80 ≤ (0xFFFE : Word).toNat % 4096 ∧ (0xFFFE : Word).toNat % 4096 < 4095 := by decide

/-- 15 and 16 live entries. -/
theorem witness_CallPushesTheReturnAddress :
    ({ base with sp := 15 } : State).sp.val ≠ 16 ∧ ({ base with sp := 16 } : State).sp.val = 16 := by decide

/-- 1 and 0 live entries. -/
theorem witness_ReturnPopsIntoPc :
    ({ base with sp := 1 } : State).sp.val ≠ 0 ∧ (0 : Fin 16).val + 1 = ({ base with sp := 1 } : State).sp.val ∧
    base.sp.val = 0 := by decide

theorem witness_UnrecognizedWordsAreNoOperations :
    ((fetching 0x5121).fault = 0 ∧ decodeWord (fetching 0x5121).wordAtPc = none) ∧
    (fetching 0x0FFF).fault = 0 ∧ decodeWord (fetching 0x0FFF).wordAtPc = some (.sys 0xFFF) := by decide

/-- E2 (a), with fifteen live entries. -/
theorem witness_CallThenReturnComesBack :
    ∃ s : State, s.fault = 0 ∧ s.sp.val < 16 ∧ decodeWord s.wordAtPc = some (.call 0x300) ∧
      (s.setPc ((0x300 : BitVec 12).setWidth 16)).wordAtPc = 0x00EE :=
  ⟨{ (fetching 0x2300).pokeBytes 0x300 [0x00, 0xEE] with sp := 15 }, by decide⟩

theorem witness_ClearTurnsEveryPixelOff :
    (fetching 0x00E0).fault = 0 ∧ decodeWord (fetching 0x00E0).wordAtPc = some .cls := by decide

theorem witness_IdleLoopChangesOnlyKeysAndTimers :
    (fetching 0x1200).fault = 0 ∧ (fetching 0x1200).dirty = false ∧ (fetching 0x1200).pc.toNat < 4096 ∧
    (fetching 0x1200).wordAtPc.toNat = 0x1000 + (fetching 0x1200).pc.toNat := by decide

theorem witness_AddImmediateWrapsWithoutAFlag : (15 : Reg) ≠ 1 := by decide

theorem witness_LogicActsBitByBit : (15 : Reg) ≠ 1 := by decide

/-- `x` 14: the result clause; `x` 15: the flag alone; a third register beside both. -/
theorem witness_AddAndSubtractReportInVF : (14 : Reg) ≠ 15 ∧ (13 : Reg) ≠ 14 ∧ (13 : Reg) ≠ 15 := by decide

theorem witness_ShiftsMoveOneBitIntoVF : (0 : Reg) ≠ 15 ∧ (1 : Reg) ≠ 0 ∧ (1 : Reg) ≠ 15 := by decide

/-- A port with a sample fixed, and one with none. -/
theorem witness_RandomIsOneDrawUnderTheMask :
    base.rndIn.pending = 0xB7 :: [] ∧ State.reset.rndIn.pending = [] := by decide

/-- `I` where all three bytes are stored, and where the first two are dropped. -/
theorem witness_DecimalDigitsAreStoredAtI :
    (base.drops 0x050 = false ∧ base.drops 0x051 = false ∧ base.drops 0x052 = false) ∧
    base.drops 0x04E = true ∧ base.drops 0x04F = true ∧ base.drops 0x0FFF = false ∧ base.drops 0x1000 = true := by decide

/-- All sixteen registers, the last one, and a block that ends at the top of the store. -/
theorem witness_BlockStoreWritesV0ToVx : (15 : Reg) ≤ 15 ∧ (0 : Reg) ≤ 0 ∧ ¬ (1 : Reg) ≤ 0 := by decide

theorem witness_BlockLoadFillsV0ToVx : (0 : Reg) ≤ 0 ∧ ¬ (1 : Reg) ≤ 0 := by decide

theorem witness_BlockStoreThenLoadRestores :
    ∃ s t w : State, (∀ k ≤ (15 : Reg).val, s.drops (s.i.toNat + k) = false) ∧ exec (.storeRegs 15) s = .next t ∧
      w.mem = t.mem ∧ w.cfg = t.cfg ∧ w.i = s.i :=
  ⟨{ base with i := 0x0FF0 }, _, { (base.setI 0x0FF0).storeBlock 16 with i := 0x0FF0 }, by decide, rfl, rfl, rfl, rfl⟩

/-- Coordinates in V0 and V14, the glyph of 0, five rows; the buffer empty. -/
theorem witness_DrawingTwiceErases :
    ∃ t u : State, (0 : Fin 16) ≠ 15 ∧ (14 : Fin 16) ≠ 15 ∧ exec (.drw 0 14 5) base = .next t ∧
      exec (.drw 0 14 5) t = .next u ∧ ∀ p < 2048, base.pixel p = false :=
  ⟨_, _, by decide, by decide, rfl, rfl, fun p _ => Pixels.get_allOff p⟩

/-- No key, key 0, key 15 alone. -/
theorem witness_KeyWaitRepeatsOrTakesTheLeastKey :
    base.keys = 0 ∧ (0x0001#16).getLsbD 0 = true ∧
    (0x8000#16).getLsbD 15 = true ∧ ∀ j < 15, (0x8000#16).getLsbD j = false := by decide

theorem witness_WaitingCycleLeavesPcAndCountsTimers :
    (fetching 0xF30A).fault = 0 ∧ (fetching 0xF30A).dirty = false ∧ decodeWord (fetching 0xF30A).wordAtPc = some (.ldVxK 3) ∧
    (fetching 0xF30A).keysSample = 0 := by decide

end Sys2Proof.Tests
end

/-! What one instruction can do, said once: every meaning is one of a few kinds of update of the state, and each
instruction that has a kind of its own is named there. Frames and invariants are case splits over these kinds. -/

namespace Sys2Proof.Machine

/-! ### Runs of byte stores -/

/-- The states reached from `s` by `n` byte stores, the one numbered `k` to the nominal address `I + k`. -/
inductive State.Stores (s : State) : Nat → State → Prop where
  | none : s.Stores 0 s
  | byte {k : Nat} {t : State} (u : Byte) (before : s.Stores k t) : s.Stores (k + 1) (t.writeByte (s.indexed k) u)

/-- A run of stores changes `mem` alone. -/
theorem State.Stores.exists_mem {s t : State} {n : Nat} (h : s.Stores n t) : ∃ m, t = { s with mem := m } := by
  induction h with
  | none => exact ⟨s.mem, rfl⟩
  | byte u _ ih =>
    obtain ⟨m, rfl⟩ := ih
    exact ⟨_, writeByte_eq _ _ _⟩

/-- A run of stores keeps the canonical form. -/
theorem State.Stores.wf {s t : State} {n : Nat} (h : s.Stores n t) (hs : Memory.wf s.cfg s.mem = true) :
    Memory.wf t.cfg t.mem = true := by
  induction h with
  | none => exact hs
  | byte u _ ih => rw [writeByte_cfg]; exact wf_writeByte _ _ ih

/-- Under the policy `ignore` no run of stores changes the font region (20_memory.md R46). -/
theorem State.Stores.keeps_font {s t : State} {n b : Nat} (h : s.Stores n t)
    (hp : s.cfg.fontWritePolicy = .ignore) (hb : b % 4096 < 80) : t.readByte b = s.readByte b := by
  induction h with
  | none => rfl
  | byte u before ih =>
    obtain ⟨m, rfl⟩ := before.exists_mem
    exact (writeByte_keeps_font (s := { s with mem := m }) hp hb).trans ih

theorem storeBlock_stores (s : State) (n : Nat) : s.Stores n (s.storeBlock n) := by
  induction n with
  | zero => exact .none
  | succ k ih => exact .byte _ ih

/-! ### The kinds of effect -/

/-- `Effect s i t`: instruction `i` takes state `s` to state `t`, as one of the kinds of update the instruction set
has. -/
inductive Effect (s : State) : Instr → State → Prop where
  | nothing (nnn : BitVec 12) : Effect s (.sys nnn) s
  | jumps {i : Instr} (u : Word) (h : i.transfersControl = true) : Effect s i (s.setPc u)
  | calls (nnn : BitVec 12) (room : s.sp.val < 16) : Effect s (.call nnn)
      { s with stack := s.stack.set s.sp.val s.pc room, sp := ⟨s.sp.val + 1, Nat.succ_lt_succ room⟩,
               pc := addrOperand nnn }
  | overflows (nnn : BitVec 12) (full : s.sp.val = 16) : Effect s (.call nnn) (s.raise .stackOverflow)
  | returns (k : Fin 16) (live : k.val + 1 = s.sp.val) : Effect s .ret
      { s with sp := ⟨k.val, Nat.lt_succ_of_lt k.isLt⟩, pc := s.stack[k] }
  | underflows (empty : s.sp.val = 0) : Effect s .ret (s.raise .stackUnderflow)
  | setsReg {i : Instr} (x : Reg) (u : Byte) (h : i.writesReg s x = true) : Effect s i (s.setReg x u)
  | setsResult {i : Instr} (x : Reg) (u : Byte) (c : Bool) (h : i.writesReg s x = true)
      (hf : i.writesReg s 15 = true) : Effect s i (s.setResult x u c)
  | takesRandom (x : Reg) (nn u : Byte) : Effect s (.rnd x nn) (s.takeRnd.setReg x u)
  | setsIndex {i : Instr} (u : Word) (h : i.writesIndex = true) (small : u.toNat < 4096) : Effect s i (s.setI u)
  | stores (x : Reg) (m : Memory) (h : s.Stores 3 { s with mem := m }) : Effect s (.ldB x) { s with mem := m }
  | storesBlock (x : Reg) (m : Memory) (u : Word) (h : s.Stores (x.val + 1) { s with mem := m })
      (small : u.toNat < 4096) : Effect s (.storeRegs x) { s with mem := m, i := u }
  | loadsBlock (x : Reg) (v : Vector Byte 16) (u : Word) (above : ∀ r : Reg, x.val < r.val → v[r] = s.v[r])
      (small : u.toNat < 4096) : Effect s (.loadRegs x) { s with v := v, i := u }
  | clears : Effect s .cls { s with fb := Pixels.allOff, dirty := true }
  | draws (x y n : Fin 16) : Effect s (.drw x y n) (s.drawSprite (s.reg x).toNat (s.reg y).toNat n.val)
  | setsDelay (x : Reg) : Effect s (.ldDtVx x) { s with dt := s.reg x }
  | setsSound (x : Reg) : Effect s (.ldStVx x) { s with st := s.reg x }

theorem addrOperand_lt (nnn : BitVec 12) : (addrOperand nnn).toNat < 4096 := by
  rw [addrOperand_toNat]
  exact nnn.isLt

theorem indexPlus_lt (s : State) (k : Nat) : (s.indexPlus k).toNat < 4096 := by
  rw [indexPlus_toNat]
  exact Nat.mod_lt _ (by decide)

/-- Five times a byte is an address. -/
theorem glyphAddr_lt (s : State) (x : Reg) : (s.glyphAddr x).toNat < 4096 := by
  have := (s.reg x).isLt
  rw [glyphAddr_toNat]
  omega

theorem exec_call_effect (nnn : BitVec 12) (s : State) :
    ∃ t, exec (.call nnn) s = .next t ∧ Effect s (.call nnn) t := by
  rcases Nat.lt_or_ge s.sp.val 16 with room | full
  · exact ⟨_, exec_call_of_room nnn room, .calls nnn room⟩
  · have full : s.sp.val = 16 := by omega
    exact ⟨_, exec_call_of_full nnn full, .overflows nnn full⟩

theorem exec_ret_effect (s : State) : ∃ t, exec .ret s = .next t ∧ Effect s .ret t := by
  rcases Nat.eq_zero_or_pos s.sp.val with empty | pos
  · exact ⟨_, exec_ret_of_empty empty, .underflows empty⟩
  · let k : Fin 16 := ⟨s.sp.val - 1, by omega⟩
    have live : k.val + 1 = s.sp.val := Nat.succ_pred_eq_of_pos pos
    exact ⟨_, exec_ret_of_pos k live, .returns k live⟩

theorem exec_ldVxK_effect (x : Reg) (s : State) : ∃ t, exec (.ldVxK x) s = .next t ∧ Effect s (.ldVxK x) t := by
  simp only [exec, execLdVxK]
  cases hk : firstKey s.keys with
  | none => exact ⟨_, rfl, .jumps _ rfl⟩
  | some k =>
    have down : s.keys ≠ 0 := fun none_down => by
      rw [none_down, firstKey_zero] at hk
      cases hk
    exact ⟨_, rfl, .setsReg x _ (by simpa [Instr.writesReg] using down)⟩

theorem exec_ldB_effect (x : Reg) (s : State) : ∃ t, exec (.ldB x) s = .next t ∧ Effect s (.ldB x) t := by
  have h : s.Stores 3 _ := .byte (ones (s.reg x)) (.byte (tens (s.reg x)) (.byte (hundreds (s.reg x)) .none))
  obtain ⟨m, hm⟩ := h.exists_mem
  exact ⟨_, congrArg Host.Outcome.next hm, .stores x m (hm ▸ h)⟩

theorem exec_storeRegs_effect (x : Reg) (s : State) :
    ∃ t, exec (.storeRegs x) s = .next t ∧ Effect s (.storeRegs x) t := by
  have h := storeBlock_stores s (x.val + 1)
  obtain ⟨m, hm⟩ := h.exists_mem
  refine ⟨{ s with mem := m, i := s.indexPlus (x.val + 1) }, ?_, .storesBlock x m _ (hm ▸ h) (indexPlus_lt s _)⟩
  rw [exec, execStoreRegs, hm, State.setI]

theorem exec_loadRegs_effect (x : Reg) (s : State) :
    ∃ t, exec (.loadRegs x) s = .next t ∧ Effect s (.loadRegs x) t := by
  refine ⟨{ s with v := (s.loadBlock (x.val + 1)).v, i := s.indexPlus (x.val + 1) }, ?_,
    .loadsBlock x _ _ (fun r above => ?_) (indexPlus_lt s _)⟩
  · rw [exec, execLoadRegs, loadBlock_eq, State.setI]
  · have := reg_loadBlock (n := x.val + 1) (by omega) s r
    rwa [if_neg (by omega)] at this

/-- Every instruction answers a next state, by one of the kinds of effect. -/
theorem exec_effect (i : Instr) (s : State) : ∃ t, exec i s = .next t ∧ Effect s i t := by
  cases i with
  | cls => exact ⟨_, rfl, .clears⟩
  | ret => exact exec_ret_effect s
  | call nnn => exact exec_call_effect nnn s
  | jp _ | seImm _ _ | sneImm _ _ | seReg _ _ | sneReg _ _ | jpV0 _ | skp _ | sknp _ => exact ⟨_, rfl, .jumps _ rfl⟩
  | ldImm x _ | addImm x _ | ldReg x _ | orReg x _ | andReg x _ | xorReg x _ | ldVxDt x =>
    exact ⟨_, rfl, .setsReg x _ (beq_self_eq_true x)⟩
  | addReg x _ | subReg x _ | shr x _ | subnReg x _ | shl x _ =>
    exact ⟨_, rfl, .setsResult x _ _ (by simp [Instr.writesReg]) (by simp [Instr.writesReg])⟩
  | ldI nnn => exact ⟨_, rfl, .setsIndex _ rfl (addrOperand_lt nnn)⟩
  | rnd x nn => exact ⟨_, rfl, .takesRandom x nn _⟩
  | drw x y n => exact ⟨_, rfl, .draws x y n⟩
  | ldVxK x => exact exec_ldVxK_effect x s
  | ldDtVx x => exact ⟨_, rfl, .setsDelay x⟩
  | ldStVx x => exact ⟨_, rfl, .setsSound x⟩
  | addI x => exact ⟨_, rfl, .setsIndex _ rfl (indexPlus_lt s _)⟩
  | ldF x => exact ⟨_, rfl, .setsIndex _ rfl (glyphAddr_lt s x)⟩
  | ldB x => exact exec_ldB_effect x s
  | storeRegs x => exact exec_storeRegs_effect x s
  | loadRegs x => exact exec_loadRegs_effect x s
  | sys nnn => exact ⟨_, rfl, .nothing nnn⟩

theorem effect_of_exec {i : Instr} {s t : State} (h : exec i s = .next t) : Effect s i t := by
  obtain ⟨u, hu, he⟩ := exec_effect i s
  rw [h] at hu
  cases hu
  exact he

/-! ### What every kind of effect keeps -/

section Keeps

variable {s t : State} {i : Instr}

/-- No instruction changes the parameters, the keypad register, the keypad port or an output pulse. -/
theorem Effect.keeps (h : Effect s i t) :
    t.cfg = s.cfg ∧ t.keys = s.keys ∧ t.keysIn = s.keysIn ∧ t.beep = s.beep ∧ t.renderNotify = s.renderNotify := by
  cases h <;> exact ⟨rfl, rfl, rfl, rfl, rfl⟩

/-- `FAULT` changes only by a raise, which changes nothing else and is a `CALL`'s or a `RET`'s. -/
theorem Effect.fault_cases (h : Effect s i t) :
    t.fault = s.fault ∨ ∃ e, t = s.raise e ∧ i.usesStack = true := by
  cases h with
  | overflows | underflows => exact .inr ⟨_, rfl, rfl⟩
  | _ => exact .inl rfl

/-- Memory changes only by a run of stores, as long as the instruction's count of stored bytes. -/
theorem Effect.mem_cases (h : Effect s i t) : t.mem = s.mem ∨ s.Stores i.storedBytes { s with mem := t.mem } := by
  cases h with
  | stores x m h | storesBlock x m u h => exact .inr h
  | _ => exact .inl rfl

/-- Whatever writes `I` writes an address below 4096 (10_state.md R15). -/
theorem Effect.index_lt (h : Effect s i t) (hs : s.i.toNat < 4096) : t.i.toNat < 4096 := by
  cases h with
  | setsIndex | storesBlock | loadsBlock => assumption
  | _ => exact hs

end Keeps

end Sys2Proof.Machine

/-! The cycle around the instruction: what its end keeps, what a port's next sample is, and the
word of no row as the no-operation it runs as. -/

namespace Sys2Proof.Machine

/-! ### The end of the cycle -/

/-- The tick and the notification change the timers, the pulses and `dirty` alone. -/
theorem cycleEnd_eq (s : State) : s.cycleEnd =
    { s with dt := s.cycleEnd.dt, st := s.cycleEnd.st, beep := s.cycleEnd.beep,
             renderNotify := s.cycleEnd.renderNotify, dirty := s.cycleEnd.dirty } := by
  unfold State.cycleEnd
  split <;> rfl

@[simp] theorem cycleEnd_i (s : State) : s.cycleEnd.i = s.i := by rw [cycleEnd_eq]
@[simp] theorem cycleEnd_keys (s : State) : s.cycleEnd.keys = s.keys := by rw [cycleEnd_eq]
@[simp] theorem cycleEnd_keysIn (s : State) : s.cycleEnd.keysIn = s.keysIn := by rw [cycleEnd_eq]
@[simp] theorem cycleEnd_mem (s : State) : s.cycleEnd.mem = s.mem := by rw [cycleEnd_eq]
@[simp] theorem cycleEnd_fault (s : State) : s.cycleEnd.fault = s.fault := by rw [cycleEnd_eq]
@[simp] theorem cycleEnd_cfg (s : State) : s.cycleEnd.cfg = s.cfg := by rw [cycleEnd_eq]
@[simp] theorem cycleEnd_readByte (s : State) (a : Nat) : s.cycleEnd.readByte a = s.readByte a := by
  rw [cycleEnd_eq]; rfl
@[simp] theorem cycleEnd_pixel (s : State) (p : Nat) : s.cycleEnd.pixel p = s.pixel p := by rw [cycleEnd_eq]; rfl

/-! ### The next sample of a port -/

theorem InPort.next_of_fixed {n : Nat} {p : InPort n} {u : BitVec n} {us : List (BitVec n)} (free : Nat → BitVec n)
    (h : p.pending = u :: us) : p.value free = u ∧ p.advance = ⟨us, p.taken + 1⟩ := by
  simp [InPort.value, InPort.advance, h]

theorem InPort.next_of_free {n : Nat} {p : InPort n} (free : Nat → BitVec n) (h : p.pending = []) :
    p.value free = free p.taken ∧ p.advance = ⟨[], p.taken + 1⟩ := by
  simp [InPort.value, InPort.advance, h]

/-! ### The instruction a word runs as -/

/-- The instruction a word is executed as: the decoded one, and `SYS 0x000` for a word of no row, which serves as a
no-operation just as well (30_encoding.md R71). -/
def runsAs (w : Word) : Instr := (decodeWord w).getD (.sys 0)

theorem runsAs_of_decodes {w : Word} {i : Instr} (h : decodeWord w = some i) : runsAs w = i := by
  rw [runsAs, h, Option.getD_some]

theorem runsAs_of_no_row {w : Word} (h : decodeWord w = none) : runsAs w = .sys 0 := by
  rw [runsAs, h, Option.getD_none]

theorem execWord_eq_exec (w : Word) (s : State) : execWord w s = exec (runsAs w) s := by
  unfold execWord
  split
  · rw [runsAs_of_decodes ‹_›]
  · rw [runsAs_of_no_row ‹_›]
    rfl

/-- What a word runs as is what it decodes to, but for `SYS 0x000`. -/
theorem decodes_of_runsAs {w : Word} {i : Instr} (h : runsAs w = i) (hi : i ≠ .sys 0) : decodeWord w = some i := by
  cases hw : decodeWord w with
  | none => exact absurd (h ▸ runsAs_of_no_row hw) hi
  | some j => rw [← h, runsAs_of_decodes hw]

theorem draws_runsAs (w : Word) : (runsAs w).draws = true ↔ ∃ i, decodeWord w = some i ∧ i.draws = true := by
  cases hw : decodeWord w with
  | none => simp [runsAs_of_no_row hw, Instr.draws]
  | some i => simp [runsAs_of_decodes hw]

/-- A running machine's next state is the end of a cycle of the instruction its word runs as. -/
theorem step_runs {s t : State} (h : s.fault = 0) (ht : step s = .next t) :
    ∃ u, exec (runsAs s.wordAtPc) s.cycleStart.advancePc = .next u ∧ t = u.cycleEnd := by
  obtain ⟨u, hu⟩ := exec_next (runsAs s.wordAtPc) s.cycleStart.advancePc
  rw [step_of_running h, execWord_eq_exec, hu] at ht
  cases ht
  exact ⟨u, hu, rfl⟩

/-- The step of a running machine, from what its instruction answers. -/
theorem step_eq_cycleEnd {s u : State} (h : s.fault = 0)
    (hu : exec (runsAs s.wordAtPc) s.cycleStart.advancePc = .next u) : step s = .next u.cycleEnd := by
  rw [step_of_running h, execWord_eq_exec, hu, finishCycle]

end Sys2Proof.Machine

/-! The invariant: every step keeps a legal state legal (O20). -/

namespace Sys2Proof.Machine

section Instruction

variable {s t : State} {i : Instr}

/-- The instruction phase keeps the canonical form of memory. -/
theorem Effect.wf (h : Effect s i t) (hs : Memory.wf s.cfg s.mem = true) : Memory.wf t.cfg t.mem = true := by
  obtain ⟨hcfg, -⟩ := h.keeps
  rw [hcfg]
  rcases h.mem_cases with hm | stored
  · rwa [hm]
  · exact stored.wf hs

/-- Under the policy `ignore` the instruction phase changes no byte of the font region. -/
theorem Effect.keeps_font {b : Nat} (h : Effect s i t) (hp : s.cfg.fontWritePolicy = .ignore) (hb : b % 4096 < 80) :
    t.readByte b = s.readByte b := by
  obtain ⟨hcfg, -⟩ := h.keeps
  rw [State.readByte, hcfg]
  rcases h.mem_cases with hm | stored
  · rw [hm, State.readByte]
  · exact stored.keeps_font hp hb

end Instruction

theorem Exception.code_ne_zero (e : Exception) : e.code ≠ 0 := by cases e <;> decide

theorem Exception.code_ne_three (e : Exception) : e.code ≠ 3 := by cases e <;> decide

/-- A halted machine's cycle only lowers the pulses. -/
theorem State.Legal.lowerPulses {s : State} (h : s.Legal) : s.lowerPulses.Legal where
  index := h.index
  memory := h.memory
  font := h.font
  clean := h.clean
  code := h.code
  quiet _ := ⟨rfl, rfl⟩

/-- The cycle of a running machine: the instruction phase keeps index, memory and font; the end of the cycle clears
`dirty`; and a cycle that raises has changed neither `dirty` nor a pulse. -/
theorem Effect.legal_cycleEnd {s u : State} {i : Instr} (h : s.Legal) (running : s.fault = 0)
    (he : Effect s.cycleStart.advancePc i u) : u.cycleEnd.Legal where
  index := by
    rw [cycleEnd_i]
    exact he.index_lt h.index
  memory := by
    rw [cycleEnd_cfg, cycleEnd_mem]
    exact he.wf h.memory
  font := by
    obtain ⟨hcfg, -⟩ := he.keeps
    rw [cycleEnd_cfg, hcfg]
    intro hp a ha
    rw [cycleEnd_readByte, he.keeps_font hp (by omega)]
    exact h.font hp a ha
  clean := by
    rcases he.fault_cases with hf | ⟨e, rfl, -⟩
    · rw [cycleEnd_of_running (hf.trans running), render_dirty]
    · rw [cycleEnd_of_halted e.code_ne_zero]
      exact h.clean
  code := by
    rw [cycleEnd_fault]
    rcases he.fault_cases with hf | ⟨e, rfl, -⟩
    · rw [hf]
      exact h.code
    · exact e.code_ne_three
  quiet := by
    intro halted
    obtain ⟨-, -, -, hb, hr⟩ := he.keeps
    rw [halted_iff, cycleEnd_fault] at halted
    rw [cycleEnd_of_halted halted]
    exact ⟨hb, hr⟩

/-- Settles O20: a halted machine lowers its pulses, a running one runs one cycle, and both keep `Legal`. -/
theorem legalStatesStayLegal : Obligations.LegalStatesStayLegal := by
  intro s t h ht
  by_cases running : s.fault = 0
  · obtain ⟨u, hu, rfl⟩ := step_runs running ht
    exact (effect_of_exec hu).legal_cycleEnd h running
  · rw [step_of_halted running] at ht
    cases ht
    exact h.lowerPulses

end Sys2Proof.Machine

/-! Which instructions write which kind of state (O24, O26), and with it what a whole cycle does to the timers, the
display and the keys (O13, O14, O15). -/

namespace Sys2Proof.Machine

/-! ### The writers of each kind of state -/

section Writers

variable {s t : State} {i : Instr}

/-- A register the "writes" column does not name keeps its value. -/
theorem Effect.keeps_reg {r : Reg} (h : Effect s i t) (hr : i.writesReg s r = false) : t.reg r = s.reg r := by
  have other : ∀ {x}, i.writesReg s x = true → r ≠ x := by
    rintro _ hx rfl
    exact absurd (hr.symm.trans hx) (by decide)
  cases h with
  | setsReg x u h => rw [reg_setReg, if_neg (other h)]
  | setsResult x u c h hf => rw [reg_setResult, if_neg (other hf), if_neg (other h)]
  | takesRandom x nn u => rw [reg_setReg, if_neg (other (beq_self_eq_true x)), takeRnd_reg]
  | loadsBlock x v u above => exact above r (Nat.lt_of_not_le (of_decide_eq_false hr))
  | draws x y n => exact (reg_setFlag _ r _).trans (if_neg (other rfl))
  | _ => rfl

/-- `pc` stays as advanced but for the instructions of the `pc` table (10_state.md R14). -/
theorem Effect.keeps_pc (h : Effect s i t) (hi : i.transfersControl = false) : t.pc = s.pc := by
  cases h with
  | jumps u h => exact absurd (hi.symm.trans h) (by decide)
  | calls | returns => cases hi
  | _ => rfl

/-- The call stack is written by `CALL` and `RET` alone (10_state.md R16, R17). -/
theorem Effect.keeps_stack (h : Effect s i t) (hi : i.usesStack = false) : t.sp = s.sp ∧ t.stack = s.stack := by
  cases h with
  | calls | returns => cases hi
  | _ => exact ⟨rfl, rfl⟩

/-- `I` is written by the five instructions of 10_state.md R15 alone. -/
theorem Effect.keeps_index (h : Effect s i t) (hi : i.writesIndex = false) : t.i = s.i := by
  cases h with
  | setsIndex u h => exact absurd (hi.symm.trans h) (by decide)
  | storesBlock | loadsBlock => cases hi
  | _ => rfl

/-- The display buffer and `dirty` are written by `CLS` and `DRW` alone (10_state.md R23, R24). -/
theorem Effect.keeps_display (h : Effect s i t) (hi : i.draws = false) : t.fb = s.fb ∧ t.dirty = s.dirty := by
  cases h with
  | clears | draws => cases hi
  | _ => exact ⟨rfl, rfl⟩

/-- `DT` is written by `LD DT, Vx` alone (10_state.md R18). -/
theorem Effect.keeps_dt (h : Effect s i t) (hi : ∀ x, i ≠ .ldDtVx x) : t.dt = s.dt := by
  cases h with
  | setsDelay x => exact absurd rfl (hi x)
  | _ => rfl

/-- `ST` is written by `LD ST, Vx` alone (10_state.md R19). -/
theorem Effect.keeps_st (h : Effect s i t) (hi : ∀ x, i ≠ .ldStVx x) : t.st = s.st := by
  cases h with
  | setsSound x => exact absurd rfl (hi x)
  | _ => rfl

/-- The random port is sampled by `RND` alone (10_state.md R27). -/
theorem Effect.keeps_rndIn (h : Effect s i t) (hi : ∀ x nn, i ≠ .rnd x nn) : t.rndIn = s.rndIn := by
  cases h with
  | takesRandom x nn u => exact absurd rfl (hi x nn)
  | _ => rfl

/-- `CLS` and `DRW` set `dirty`, whatever they draw, and raise nothing (43_display.md R130, R132). -/
theorem dirty_of_exec_draws (h : exec i s = .next t) (hi : i.draws = true) : t.dirty = true ∧ t.fault = s.fault := by
  cases i with
  | cls | drw =>
    cases h
    exact ⟨rfl, rfl⟩
  | _ => cases hi

end Writers

/-- Settles O24: each kind of effect writes only the registers its instruction's column names. -/
theorem generalRegistersChangeOnlyAsTabled : Obligations.GeneralRegistersChangeOnlyAsTabled :=
  fun _ _ _ _ h => (effect_of_exec h).keeps_reg

/-- Settles O26, one lemma for each kind of state. -/
theorem eachKindOfStateHasItsWriters : Obligations.EachKindOfStateHasItsWriters := by
  intro i s t h
  have h := effect_of_exec h
  refine ⟨h.keeps_pc, fun hi => ?_, h.keeps_index, fun hi => ?_, h.keeps_dt, h.keeps_st, h.keeps_rndIn⟩
  · obtain ⟨hsp, hstack⟩ := h.keeps_stack hi
    exact ⟨hsp, fun k => by rw [hstack]⟩
  · obtain ⟨hfb, hdirty⟩ := h.keeps_display hi
    exact ⟨fun p _ => by rw [State.pixel, State.pixel, hfb], hdirty⟩

/-! ### The cycle: timers, display, keys -/

theorem decide_eq_one_iff (u : Byte) : decide (u = 1) = true ↔ u.toNat = 1 := by
  rw [decide_eq_true_iff, ← BitVec.toNat_inj]
  rfl

/-- Settles O13: the tick counts down what the instruction phase left, which is the value set or the value before. -/
theorem timersTickOncePerCycle : Obligations.TimersTickOncePerCycle := by
  intro s t running ht completed
  obtain ⟨u, hu, rfl⟩ := step_runs running ht
  rw [cycleEnd_fault] at completed
  have h := effect_of_exec hu
  have hdt : ∀ b, u.dt = b → u.cycleEnd.dt.toNat = b.toNat - 1 := by
    rintro _ rfl
    rw [cycleEnd_fields completed, countDown_toNat]
  have hst : ∀ b, u.st = b → u.cycleEnd.st.toNat = b.toNat - 1 ∧ (u.cycleEnd.beep = true ↔ b.toNat = 1) := by
    rintro _ rfl
    rw [cycleEnd_fields completed]
    exact ⟨countDown_toNat u.st, decide_eq_one_iff u.st⟩
  refine ⟨fun x hx => hdt _ ?_, fun other => hdt _ (h.keeps_dt fun x e => other x (decodes_of_runsAs e nofun)),
    fun x hx => hst _ ?_, fun other => hst _ (h.keeps_st fun x e => other x (decodes_of_runsAs e nofun))⟩
  · rw [runsAs_of_decodes hx] at hu
    cases hu
    rfl
  · rw [runsAs_of_decodes hx] at hu
    cases hu
    rfl

/-- Settles O14: a cycle of `CLS` or `DRW` hands over the `dirty` it set; any other hands over the `dirty` from before,
which is 0, and keeps the buffer. -/
theorem renderNotifyFollowsClearAndDraw : Obligations.RenderNotifyFollowsClearAndDraw := by
  intro s t running clean ht
  obtain ⟨u, hu, rfl⟩ := step_runs running ht
  have h := effect_of_exec hu
  rw [← draws_runsAs]
  cases hd : (runsAs s.wordAtPc).draws with
  | true =>
    obtain ⟨dirty, hf⟩ := dirty_of_exec_draws hu hd
    rw [cycleEnd_of_running (hf.trans running)]
    simp [dirty]
  | false =>
    obtain ⟨hfb, hdirty⟩ := h.keeps_display hd
    obtain ⟨-, -, -, -, hnotify⟩ := h.keeps
    have hlow : u.cycleEnd.dirty = false ∧ u.cycleEnd.renderNotify = false := by
      by_cases completed : u.fault = 0
      · rw [cycleEnd_of_running completed]
        exact ⟨rfl, hdirty.trans clean⟩
      · rw [cycleEnd_of_halted completed]
        exact ⟨hdirty.trans clean, hnotify⟩
    have hpixel : ∀ p, u.cycleEnd.pixel p = s.pixel p := fun p => by
      rw [cycleEnd_pixel, State.pixel, hfb]
      rfl
    simp [hlow, hpixel]

/-- Settles O15: the key refresh takes the snapshot, and the rest of the cycle leaves keys and port alone. -/
theorem keysAreTheHostsSnapshot : Obligations.KeysAreTheHostsSnapshot := by
  intro s t running ht
  obtain ⟨u, hu, rfl⟩ := step_runs running ht
  obtain ⟨-, hkeys, hport, -⟩ := (effect_of_exec hu).keeps
  have hkeys : u.cycleEnd.keys = s.keysIn.value Config.freeKeys := by rw [cycleEnd_keys, hkeys]; rfl
  have hport : u.cycleEnd.keysIn = s.keysIn.advance := by rw [cycleEnd_keysIn, hport]; rfl
  rw [hkeys, hport]
  exact ⟨fun _ _ => InPort.next_of_fixed _, InPort.next_of_free _⟩

end Sys2Proof.Machine

/-! Single meanings and whole cycles of the state family (O9, O10, O34, O40, O43, O45, O51, O54, O55). -/

namespace Sys2Proof.Machine

/-! ### The cycle -/

/-- Settles O9, from the step's equations and the fields of a completed cycle's end. -/
theorem stepRunsTheDecodedInstruction : Obligations.StepRunsTheDecodedInstruction := by
  intro s running
  refine ⟨s.cycleStart.advancePc, rfl, fun i hi t ht => ?_, fun hw => ?_⟩
  · rw [step_eq_cycleEnd running (by rw [runsAs_of_decodes hi]; exact ht)]
    split
    · rw [cycleEnd_fields ‹_›]
    · rw [cycleEnd_of_halted ‹_›]
  · rw [step_eq_cycleEnd running (by rw [runsAs_of_no_row hw]; rfl),
      cycleEnd_fields (s := s.cycleStart.advancePc) running]

/-- Settles O10. -/
theorem haltedMachineChangesNothing : Obligations.HaltedMachineChangesNothing := fun _ => step_of_halted

/-- Settles O55: no key is down in the refreshed snapshot, so that `LD Vx, K` takes back the advance of `pc`. -/
theorem waitingCycleLeavesPcAndCountsTimers : Obligations.WaitingCycleLeavesPcAndCountsTimers := by
  intro s x running clean hw none_down
  have hu : exec (runsAs s.wordAtPc) s.cycleStart.advancePc =
      .next (s.cycleStart.advancePc.setPc (s.cycleStart.advancePc.pc - 2)) := by
    rw [runsAs_of_decodes hw, exec_ldVxK_of_none x none_down]
  refine ⟨_, step_eq_cycleEnd running hu, ?_⟩
  rw [cycleEnd_fields (s := s.cycleStart.advancePc.setPc _) running]
  refine ⟨BitVec.add_sub_cancel _ _, countDown_toNat s.dt, countDown_toNat s.st, decide_eq_one_iff s.st, ?_⟩
  simp [none_down, clean]

/-! ### Instructions that write one register -/

/-- A register write: that register has the value, and nothing else has changed. -/
theorem setReg_frame (s : State) (x : Reg) (u : Byte) :
    (s.setReg x u).reg x = u ∧ (∀ r, r ≠ x → (s.setReg x u).reg r = s.reg r) ∧
      s.setReg x u = { s with v := (s.setReg x u).v } ∧ s.SameMemory (s.setReg x u) :=
  ⟨by rw [reg_setReg, if_pos rfl], fun r hr => by rw [reg_setReg, if_neg hr], rfl, fun _ => rfl⟩

/-- Settles O40: the bits of a bitwise operation, under the frame of a register write. -/
theorem logicActsBitByBit : Obligations.LogicActsBitByBit := by
  intro s x y
  refine ⟨⟨_, rfl, ?_⟩, ⟨_, rfl, ?_⟩, ⟨_, rfl, ?_⟩⟩
  · obtain ⟨hx, frame⟩ := setReg_frame s x (s.reg x ||| s.reg y)
    exact ⟨fun k _ => by rw [hx, BitVec.getLsbD_or], frame⟩
  · obtain ⟨hx, frame⟩ := setReg_frame s x (s.reg x &&& s.reg y)
    exact ⟨fun k _ => by rw [hx, BitVec.getLsbD_and], frame⟩
  · obtain ⟨hx, frame⟩ := setReg_frame s x (s.reg x ^^^ s.reg y)
    exact ⟨fun k _ => by rw [hx, BitVec.getLsbD_xor], frame⟩

/-- Settles O43: the draw is the port's next sample, and the register write comes on top of the port's advance. -/
theorem randomIsOneDrawUnderTheMask : Obligations.RandomIsOneDrawUnderTheMask := by
  intro s x nn
  obtain ⟨hx, others, -, memory⟩ := setReg_frame s.takeRnd x (s.rndSample &&& nn)
  exact ⟨_, s.rndSample, rfl, fun _ _ => InPort.next_of_fixed _, InPort.next_of_free _,
    fun k _ => by rw [hx, BitVec.getLsbD_and], others, rfl, memory⟩

/-- Settles O54: the scan finds nothing, and `pc` goes back, or it finds the least key. -/
theorem keyWaitRepeatsOrTakesTheLeastKey : Obligations.KeyWaitRepeatsOrTakesTheLeastKey := by
  intro s x
  refine ⟨fun none_down => ⟨_, exec_ldVxK_of_none x none_down, ?_, rfl, fun _ => rfl⟩,
    fun k hk down least => ⟨_, exec_ldVxK_of_key x hk down least, ?_⟩⟩
  · have := s.pc.isLt
    rw [setPc_pc, BitVec.toNat_sub]
    simp only [BitVec.reduceToNat]
    omega
  · obtain ⟨hx, frame⟩ := setReg_frame s x (BitVec.ofNat 8 k)
    exact ⟨by rw [hx, BitVec.toNat_ofNat]; omega, frame⟩

/-! ### Instructions that write `pc` or `I` -/

/-- Settles O34: a 12-bit address and a byte have a sum below 65536. -/
theorem jumpWithOffsetAddsV0 : Obligations.JumpWithOffsetAddsV0 := by
  intro s nnn
  refine ⟨_, rfl, ?_, rfl, fun _ => rfl⟩
  have := nnn.isLt
  have := (s.reg 0).isLt
  rw [setPc_pc, BitVec.toNat_add, addrOperand_toNat, regWord_toNat]
  omega

/-- Settles O45. -/
theorem indexArithmeticStaysInTwelveBits : Obligations.IndexArithmeticStaysInTwelveBits := fun s x =>
  ⟨⟨_, rfl, indexPlus_toNat s _, rfl, fun _ => rfl⟩,
    ⟨_, rfl, glyphAddr_toNat s x, glyphAddr_lt s x, rfl, fun _ => rfl⟩⟩

/-! ### The draw -/

theorem flagByte_eq_one_iff (c : Bool) : flagByte c = 1 ↔ c = true := by cases c <;> decide

theorem flagByte_eq_zero_or_one (c : Bool) : flagByte c = 0 ∨ flagByte c = 1 := by
  cases c
  · exact .inl rfl
  · exact .inr rfl

/-- A covered pixel that was on, as a set bit of the sprite that falls on one. -/
theorem covers_on_iff (s : State) (X Y n : Nat) :
    (∃ q < 2048, s.Covers X Y n q ∧ s.pixel q = true) ↔
      ∃ r < n, ∃ c < 8, spriteBit (s.readByte (s.indexed r)) c = true ∧ s.pixel (spritePixel X Y r c) = true := by
  constructor
  · rintro ⟨q, -, ⟨r, hr, c, hc, hb, rfl⟩, hon⟩
    exact ⟨r, hr, c, hc, hb, hon⟩
  · rintro ⟨r, hr, c, hc, hb, hon⟩
    exact ⟨_, spritePixel_lt X Y r c, ⟨r, hr, c, hc, hb, rfl⟩, hon⟩

/-- Settles O51: the pixels and the collision of the whole sprite, and the flag write on top of the drawn buffer. -/
theorem drawTogglesExactlyTheSpritePixels : Obligations.DrawTogglesExactlyTheSpritePixels := by
  intro s x y n
  obtain ⟨pixels, collision⟩ := drawn_spec s (s.reg x).toNat (s.reg y).toNat n.isLt.le
  have hreg : ∀ r, (s.drawSprite (s.reg x).toNat (s.reg y).toNat n.val).reg r =
      if r = 15 then flagByte (s.drawn (s.reg x).toNat (s.reg y).toNat n.val).hit else s.reg r :=
    fun r => reg_setFlag _ r _
  refine ⟨_, rfl, pixels, ?_, ?_, rfl, fun r hr => by rw [hreg, if_neg hr], rfl, fun _ => rfl⟩
  · rw [hreg, if_pos rfl, flagByte_eq_one_iff, collision]
    exact covers_on_iff s _ _ _
  · rw [hreg, if_pos rfl]
    exact flagByte_eq_zero_or_one _

end Sys2Proof.Machine

/-! Memory: the fetch, loads after stores, the bytes an instruction can change, and instructions stored where they are
fetched next (O16, O27, O28, O29). -/

namespace Sys2Proof.Machine

/-! ### The fetch -/

/-- Addresses that agree modulo 4096 read the same byte (20_memory.md R43). -/
theorem readByte_congr (s : State) {a b : Nat} (h : a % 4096 = b % 4096) : s.readByte a = s.readByte b := by
  rw [← readByte_mod s a, h, readByte_mod]

/-- The fetch of a state that differs in `pc` alone reads memory at the new `pc`. -/
theorem fetch_setPc (s : State) (u : Word) : (s.setPc u).fetch = s.readWord u.toNat := rfl

theorem readWord_congr (s : State) {a b : Nat} (h : a % 4096 = b % 4096) : s.readWord a = s.readWord b := by
  rw [State.readWord, readByte_congr s h, readByte_congr s (show (a + 1) % 4096 = (b + 1) % 4096 by omega),
    State.readWord]

/-- The two halves of the fetched word, as bytes of memory (20_memory.md R44, R45). -/
theorem wordAtPc_halves (s : State) :
    s.wordAtPc.toNat / 256 = (s.readByte s.pc.toNat).toNat ∧
      s.wordAtPc.toNat % 256 = (s.readByte (s.pc.toNat + 1)).toNat := by
  have hw : s.wordAtPc.toNat = (s.readByte s.pc.toNat).toNat * 256 + (s.readByte (s.pc.toNat + 1)).toNat := by
    rw [← fetch_eq_wordAtPc]
    exact wordOfBytes_toNat _ _
  have := (s.readByte (s.pc.toNat + 1)).isLt
  omega

/-- Settles O16: the two byte reads of a fetch see their addresses modulo 4096 only. -/
theorem fetchUsesTheLowTwelveBitsOfPc : Obligations.FetchUsesTheLowTwelveBitsOfPc := by
  intro s u hu
  rw [readByte_mod, readByte_mod, fetch_setPc]
  exact ⟨readWord_congr s hu, fetch_eq_wordAtPc s, wordAtPc_halves s⟩

/-! ### The bytes an instruction changes -/

/-- A run of stores changes no byte outside the addresses it stores to. -/
theorem State.Stores.sameMemoryOutside {s t : State} {n : Nat} (h : s.Stores n t) :
    s.SameMemoryOutside t s.i.toNat n := by
  induction h with
  | none => exact fun _ _ => rfl
  | @byte k t u _ ih =>
    intro b outside
    have hk : b % 4096 ≠ s.indexed k % 4096 := outside k (Nat.lt_succ_self k)
    rw [readByte_writeByte, if_neg fun e => hk e.1]
    exact ih b fun j hj => outside j (Nat.lt_succ_of_lt hj)

/-- The instruction phase changes no byte outside those the instruction stores from `I` up (20_memory.md R42). -/
theorem Effect.sameMemoryOutside {s t : State} {i : Instr} (h : Effect s i t) :
    s.SameMemoryOutside t s.i.toNat i.storedBytes := by
  intro b outside
  obtain ⟨hcfg, -⟩ := h.keeps
  rw [State.readByte, hcfg]
  rcases h.mem_cases with hm | stored
  · rw [hm, State.readByte]
  · exact stored.sameMemoryOutside b outside

/-- Settles O27: memory changes by a run of stores from `I` up or not at all, and no run of stores reaches the font
region under the policy `ignore`. -/
theorem memoryChangesOnlyInTheStoredBytes : Obligations.MemoryChangesOnlyInTheStoredBytes := fun _ _ _ h =>
  have h := effect_of_exec h
  ⟨h.sameMemoryOutside, fun ignored _ => h.keeps_font ignored⟩

/-! ### Loads after stores -/

theorem drops_eq_false_iff (s : State) (a : Nat) :
    s.drops a = false ↔ s.cfg.fontWritePolicy = .allow ∨ 80 ≤ a % 4096 := by
  rw [← Bool.not_eq_true, drops_eq, not_and_or, Nat.not_lt]
  cases s.cfg.fontWritePolicy <;> simp

theorem writeByte_of_drops {s : State} {a : Nat} (u : Byte) (h : s.drops a = true) : s.writeByte a u = s :=
  if_pos h

/-- Settles O28: a store is performed or dropped by `drops`, which says exactly where each of the two happens. -/
theorem loadReturnsTheLatestStore : Obligations.LoadReturnsTheLatestStore := by
  intro s a b u
  refine ⟨fun performed => ?_, fun ignored font => writeByte_of_drops u ((drops_eq s a).mpr ⟨ignored, font⟩)⟩
  have kept : s.drops a = false := (drops_eq_false_iff s a).mpr performed
  simp only [readByte_writeByte, kept, and_true]

/-! ### Instructions stored where they are fetched -/

/-- Decoding reads every well-formed instruction's own word back. -/
theorem decodeWord_encode : ∀ {i : Instr}, i.wellFormed = true → decodeWord (encode i) = some i
  | .cls => Laws.RoundTrip.cls
  | .ret => Laws.RoundTrip.ret
  | .jp nnn => Laws.RoundTrip.jp nnn
  | .call nnn => Laws.RoundTrip.call nnn
  | .seImm x nn => Laws.RoundTrip.seImm x nn
  | .sneImm x nn => Laws.RoundTrip.sneImm x nn
  | .seReg x y => Laws.RoundTrip.seReg x y
  | .sneReg x y => Laws.RoundTrip.sneReg x y
  | .ldImm x nn => Laws.RoundTrip.ldImm x nn
  | .addImm x nn => Laws.RoundTrip.addImm x nn
  | .ldReg x y => Laws.RoundTrip.ldReg x y
  | .orReg x y => Laws.RoundTrip.orReg x y
  | .andReg x y => Laws.RoundTrip.andReg x y
  | .xorReg x y => Laws.RoundTrip.xorReg x y
  | .addReg x y => Laws.RoundTrip.addReg x y
  | .subReg x y => Laws.RoundTrip.subReg x y
  | .shr x y => Laws.RoundTrip.shr x y
  | .subnReg x y => Laws.RoundTrip.subnReg x y
  | .shl x y => Laws.RoundTrip.shl x y
  | .ldI nnn => Laws.RoundTrip.ldI nnn
  | .jpV0 nnn => Laws.RoundTrip.jpV0 nnn
  | .rnd x nn => Laws.RoundTrip.rnd x nn
  | .drw x y n => Laws.RoundTrip.drw x y n
  | .skp x => Laws.RoundTrip.skp x
  | .sknp x => Laws.RoundTrip.sknp x
  | .ldVxDt x => Laws.RoundTrip.ldVxDt x
  | .ldVxK x => Laws.RoundTrip.ldVxK x
  | .ldDtVx x => Laws.RoundTrip.ldDtVx x
  | .ldStVx x => Laws.RoundTrip.ldStVx x
  | .addI x => Laws.RoundTrip.addI x
  | .ldF x => Laws.RoundTrip.ldF x
  | .ldB x => Laws.RoundTrip.ldB x
  | .storeRegs x => Laws.RoundTrip.storeRegs x
  | .loadRegs x => Laws.RoundTrip.loadRegs x
  | .sys nnn => Laws.RoundTrip.sys nnn

/-- The two bytes of an instruction make its word again. -/
theorem wordOfBytes_of_encodeBytes {i : Instr} {hi lo : Byte} (h : encodeBytes i = [hi, lo]) :
    wordOfBytes hi lo = encode i := by
  cases h
  exact wordOfBytes_bytes (encode i)

/-- Two bytes stored at `pc` and `pc + 1`, neither of them dropped, are the next fetch. -/
theorem fetch_writeByte_writeByte {s : State} (hi lo : Byte) (h0 : s.drops s.pc.toNat = false)
    (h1 : s.drops (s.pc.toNat + 1) = false) :
    ((s.writeByte s.pc.toNat hi).writeByte (s.pc.toNat + 1) lo).fetch = wordOfBytes hi lo := by
  have apart : s.pc.toNat % 4096 ≠ (s.pc.toNat + 1) % 4096 := by omega
  simp [State.fetch, State.readWord, readByte_writeByte, h0, h1, apart]

/-- Settles O29: both stores are above the font region, the fetch reads them back as the instruction's word, and the
decoder reads that word back as the instruction. -/
theorem storesAreSeenByTheNextFetch : Obligations.StoresAreSeenByTheNextFetch := by
  intro s i hi lo wf bytes above below
  have h0 : s.drops s.pc.toNat = false := (drops_eq_false_iff s _).mpr (.inr above)
  have h1 : s.drops (s.pc.toNat + 1) = false := (drops_eq_false_iff s _).mpr (.inr (by omega))
  rw [fetch_writeByte_writeByte hi lo h0 h1, wordOfBytes_of_encodeBytes bytes, decodeWord_encode wf]

end Sys2Proof.Machine

/-! Encoding: decoding encoded words and bytes, the decoder against the mask and match columns of the opcode table, and
what a word executes as (O1, O4, O5, O6, O7, O8, O11). -/

namespace Sys2Proof.Machine

/-! ### Words and bytes -/

theorem decode_of_decodes {hi lo : Byte} {i : Instr} (rest : List Byte) (h : decodeWord (wordOfBytes hi lo) = some i) :
    decode (hi :: lo :: rest) = .ok (i, rest) := by
  simp only [decode, h]

/-- Settles O1: the word by the round trip of every constructor, the bytes because they make that word again. -/
theorem decodeOfEncodeIsTheInstruction : Obligations.DecodeOfEncodeIsTheInstruction := by
  intro i rest wf
  refine ⟨decodeWord_encode wf, decode_of_decodes rest ?_⟩
  rw [wordOfBytes_of_encodeBytes rfl, decodeWord_encode wf]

/-- Settles O5: the two bytes make the word that the statement writes as a number. -/
theorem bytesDecodeHighByteFirst : Obligations.BytesDecodeHighByteFirst := by
  refine ⟨fun hi lo rest => ?_, rfl, fun _ => rfl⟩
  rw [← wordOfBytes_eq]
  rfl

/-- Settles O6, by running the decoder on each of the words. -/
theorem decodesTheWordsWrittenOut : Obligations.DecodesTheWordsWrittenOut := by
  unfold Obligations.DecodesTheWordsWrittenOut
  decide

/-! ### What a row of the opcode table compares -/

theorem word_eq_wordA (w : Word) : w = wordA (fieldOp w) (fieldNNN w) := by
  apply BitVec.eq_of_toNat_eq
  rw [wordA_toNat, fieldOp_toNat, fieldNNN_toNat]
  omega

theorem wordA_and_mask (op : BitVec 4) (nnn low : BitVec 12) :
    wordA op nnn &&& (0xF#4 ++ low) = wordA op (nnn &&& low) :=
  BitVec.and_append.trans (congrArg (· ++ (nnn &&& low)) (BitVec.and_allOnes (x := op)))

/-- A row whose mask has all of `op` and the bits `low` of the rest compares `op` and those bits. -/
theorem covers_iff (low : BitVec 12) (b w : Word) : OpcodeRow.covers ⟨0xF#4 ++ low, b⟩ w = true ↔
    (fieldOp w).toNat = b.toNat / 4096 ∧ (fieldNNN w &&& low).toNat = b.toNat % 4096 := by
  have masked : w &&& (0xF#4 ++ low) = wordA (fieldOp w) (fieldNNN w &&& low) := by
    rw [← wordA_and_mask, ← word_eq_wordA]
  have := (fieldNNN w &&& low).isLt
  simp only [OpcodeRow.covers, beq_iff_eq, masked, ← BitVec.toNat_inj, wordA_toNat]
  omega

/-- Where the mask is 0xF000, `op` alone selects the row. -/
theorem covers_op_iff (b w : Word) : OpcodeRow.covers ⟨0xF000, b⟩ w = true ↔
    (fieldOp w).toNat = b.toNat / 4096 ∧ b.toNat % 4096 = 0 := by
  rw [show (0xF000 : Word) = 0xF#4 ++ 0x000#12 from rfl, covers_iff, BitVec.and_zero, eq_comm (a := (0x000#12).toNat)]
  rfl

/-- Where the mask is 0xF00F, `op` and `n` select the row. -/
theorem covers_n_iff (b w : Word) : OpcodeRow.covers ⟨0xF00F, b⟩ w = true ↔
    (fieldOp w).toNat = b.toNat / 4096 ∧ (fieldN w).val = b.toNat % 4096 := by
  have low : (fieldNNN w &&& 0x00F#12).toNat = (fieldN w).val := by
    rw [BitVec.toNat_and, fieldNNN_toNat, fieldN_val]
    exact (Nat.and_two_pow_sub_one_eq_mod _ 4).trans (by omega)
  rw [show (0xF00F : Word) = 0xF#4 ++ 0x00F#12 from rfl, covers_iff, low]

/-- Where the mask is 0xF0FF, `op` and `nn` select the row. -/
theorem covers_nn_iff (b w : Word) : OpcodeRow.covers ⟨0xF0FF, b⟩ w = true ↔
    (fieldOp w).toNat = b.toNat / 4096 ∧ (fieldNN w).toNat = b.toNat % 4096 := by
  have low : (fieldNNN w &&& 0x0FF#12).toNat = (fieldNN w).toNat := by
    rw [BitVec.toNat_and, fieldNNN_toNat, fieldNN_toNat]
    exact (Nat.and_two_pow_sub_one_eq_mod _ 8).trans (by omega)
  rw [show (0xF0FF : Word) = 0xF#4 ++ 0x0FF#12 from rfl, covers_iff, low]

/-- A row with the whole word as its mask covers one word. -/
theorem covers_word_iff (b w : Word) : OpcodeRow.covers ⟨0xFFFF, b⟩ w = true ↔ w = b := by
  rw [OpcodeRow.covers, beq_iff_eq, show (0xFFFF : Word) = BitVec.allOnes 16 from rfl, BitVec.and_allOnes]

/-! ### The decoder against the rows -/

/-- A word that an instruction's row covers decodes to an instruction of that row, `SYS` yielding to the others. -/
theorem decodes_of_row_covers {i : Instr} {w : Word} (h : i.row.covers w = true) (hi : i.row ≠ sysRow) :
    ∃ j, decodeWord w = some j ∧ j.row = i.row := by
  cases i with
  | cls | ret =>
    obtain rfl := (covers_word_iff _ w).mp h
    exact ⟨_, rfl, rfl⟩
  | jp | call | seImm | sneImm | ldImm | addImm | ldI | jpV0 | rnd | drw =>
    have hop := ((covers_op_iff _ w).mp h).1
    simp [decodeWord, hop, Instr.row]
  | seReg | sneReg | ldReg | orReg | andReg | xorReg | addReg | subReg | shr | subnReg | shl =>
    obtain ⟨hop, hn⟩ := (covers_n_iff _ w).mp h
    simp [decodeWord, decodeFamily8, hop, hn, Fin.ext_iff, Instr.row]
  | skp | sknp | ldVxDt | ldVxK | ldDtVx | ldStVx | addI | ldF | ldB | storeRegs | loadRegs =>
    obtain ⟨hop, hnn⟩ := (covers_nn_iff _ w).mp h
    simp [decodeWord, decodeFamilyE, decodeFamilyF, hop, hnn, Instr.row]
  | sys => exact absurd rfl hi

section Covers
variable {i : Instr} {w : Word}

theorem row_covers_of_family0 (hop : (fieldOp w).toNat = 0x0) : (decodeFamily0 w).row.covers w = true := by
  unfold decodeFamily0
  split
  · exact (covers_word_iff _ w).mpr ‹_›
  · split
    · exact (covers_word_iff _ w).mpr ‹_›
    · exact (covers_op_iff _ w).mpr ⟨hop, rfl⟩

theorem row_covers_of_family8 (hop : (fieldOp w).toNat = 0x8) (h : decodeFamily8 w = some i) :
    i.row.covers w = true := by
  unfold decodeFamily8 at h
  split at h <;> cases h
  all_goals exact (covers_n_iff _ w).mpr ⟨hop, ‹_›⟩

theorem row_covers_of_familyE (hop : (fieldOp w).toNat = 0xE) (h : decodeFamilyE w = some i) :
    i.row.covers w = true := by
  unfold decodeFamilyE at h
  split at h <;> cases h
  all_goals exact (covers_nn_iff _ w).mpr ⟨hop, ‹_›⟩

theorem row_covers_of_familyF (hop : (fieldOp w).toNat = 0xF) (h : decodeFamilyF w = some i) :
    i.row.covers w = true := by
  unfold decodeFamilyF at h
  split at h <;> cases h
  all_goals exact (covers_nn_iff _ w).mpr ⟨hop, ‹_›⟩

/-- A decoded instruction's row covers its word: the row compares the fields on which the decoder branched. -/
theorem row_covers_of_decodes (h : decodeWord w = some i) : i.row.covers w = true := by
  unfold decodeWord at h
  split at h
  case h_1 hop => exact Option.some.inj h ▸ row_covers_of_family0 hop
  case h_9 hop => exact row_covers_of_family8 hop h
  case h_15 hop => exact row_covers_of_familyE hop h
  case h_16 hop => exact row_covers_of_familyF hop h
  case h_6 hop | h_10 hop =>
    obtain ⟨hn, h⟩ := Option.ite_none_right_eq_some.mp h
    cases h
    exact (covers_n_iff _ w).mpr ⟨hop, congrArg Fin.val hn⟩
  all_goals cases h
  all_goals exact (covers_op_iff _ w).mpr ⟨‹_›, rfl⟩

end Covers

theorem row_eq_sysRow_or_mem (i : Instr) : i.row = sysRow ∨ i.row ∈ opcodeRows := by
  cases i with
  | sys => exact .inl rfl
  | _ => exact .inr (by simp [Instr.row, opcodeRows])

/-- A listed row is the row of an instruction, namely of the one its `match` bits decode to. -/
theorem exists_instr_of_mem_opcodeRows {r : OpcodeRow} (h : r ∈ opcodeRows) : ∃ i : Instr, i.row = r := by
  have : ∀ r ∈ opcodeRows, (decodeWord r.bits).map Instr.row = some r := by decide
  obtain ⟨i, -, hi⟩ := Option.map_eq_some_iff.mp (this r h)
  exact ⟨i, hi⟩

theorem sysRow_not_mem_opcodeRows : sysRow ∉ opcodeRows := by decide

theorem decodes_of_listed_row_covers {r : OpcodeRow} {w : Word} (hr : r ∈ opcodeRows) (h : r.covers w = true) :
    ∃ i, decodeWord w = some i ∧ i.row = r := by
  obtain ⟨i, rfl⟩ := exists_instr_of_mem_opcodeRows hr
  exact decodes_of_row_covers h fun e => sysRow_not_mem_opcodeRows (e ▸ hr)

theorem decodes_of_sysRow_covers {w : Word} (h : sysRow.covers w = true) : ∃ i, decodeWord w = some i := by
  have hop := ((covers_op_iff _ w).mp h).1
  simp [decodeWord, hop]

/-- Settles O4: a word that a listed row covers decodes to an instruction of that row. So it decodes to something, not
to `SYS`, and as it decodes to one instruction only, no second listed row covers it. -/
theorem decoderAgreesWithTheOpcodeTable : Obligations.DecoderAgreesWithTheOpcodeTable := by
  intro w
  refine ⟨fun i hi => ⟨row_covers_of_decodes hi, row_eq_sysRow_or_mem i, fun sys r hr => ?_⟩, fun hw r hr => ?_,
    fun r hr q hq rcovers qcovers => ?_⟩
  · refine Bool.eq_false_iff.mpr fun covers => ?_
    obtain ⟨j, hj, rfl⟩ := decodes_of_listed_row_covers hr covers
    cases hi.symm.trans hj
    exact sysRow_not_mem_opcodeRows (sys ▸ hr)
  · refine Bool.eq_false_iff.mpr fun covers => ?_
    have ⟨i, hi⟩ : ∃ i, decodeWord w = some i := by
      rcases List.mem_cons.mp hr with rfl | hr
      · exact decodes_of_sysRow_covers covers
      · exact (decodes_of_listed_row_covers hr covers).imp fun _ => And.left
    cases hw.symm.trans hi
  · obtain ⟨i, hi, rfl⟩ := decodes_of_listed_row_covers hr rcovers
    obtain ⟨j, hj, rfl⟩ := decodes_of_listed_row_covers hq qcovers
    cases hi.symm.trans hj
    rfl

/-! ### What a word executes as -/

theorem execWord_encode {i : Instr} (wf : i.wellFormed = true) (s : State) : execWord (encode i) s = exec i s := by
  rw [execWord_eq_exec, runsAs_of_decodes (decodeWord_encode wf)]

/-- Four nibbles in a row are a word of format R. -/
theorem append_eq_wordR (op x y n : BitVec 4) : op ++ (x ++ (y ++ n)) = wordR op x.toFin y.toFin n := by
  simp [wordR]

theorem exec_assembled (i : Instr) (s : State) : exec i.assembled s = exec i s := by
  cases i <;> rfl

/-- Settles O7: the two words are those of shifts whose meanings do not look at `y`. -/
theorem shiftWordsExecuteAlikeForEveryY : Obligations.ShiftWordsExecuteAlikeForEveryY := by
  refine ⟨fun x y z n s hn => ?_, fun x y => ⟨rfl, rfl⟩, exec_assembled⟩
  rw [append_eq_wordR, append_eq_wordR]
  rcases hn with rfl | rfl
  · calc execWord (encode (.shr x.toFin y.toFin)) s = exec (.shr x.toFin y.toFin) s := execWord_encode rfl s
      _ = exec (.shr x.toFin z.toFin) s := rfl
      _ = execWord (encode (.shr x.toFin z.toFin)) s := (execWord_encode rfl s).symm
  · calc execWord (encode (.shl x.toFin y.toFin)) s = exec (.shl x.toFin y.toFin) s := execWord_encode rfl s
      _ = exec (.shl x.toFin z.toFin) s := rfl
      _ = execWord (encode (.shl x.toFin z.toFin)) s := (execWord_encode rfl s).symm

theorem row_eq_sysRow_iff (i : Instr) : i.row = sysRow ↔ ∃ nnn, i = .sys nnn := by
  cases i <;> simp [Instr.row, sysRow]

theorem isUnrecognized_iff (w : Word) :
    isUnrecognized w = true ↔ decodeWord w = none ∨ ∃ nnn, decodeWord w = some (.sys nnn) := by
  unfold isUnrecognized
  cases decodeWord w with
  | none => simp
  | some i => simp [row_eq_sysRow_iff]

/-- Settles O8: an unrecognized word runs as a `SYS`. -/
theorem anyUnrecognizedWordServesAsNoOperation : Obligations.AnyUnrecognizedWordServesAsNoOperation := by
  refine ⟨fun w hw s => ?_, isUnrecognized_iff, rfl, by decide⟩
  rw [execWord_eq_exec]
  rcases (isUnrecognized_iff w).mp hw with noRow | ⟨nnn, sys⟩
  · rw [runsAs_of_no_row noRow]
    rfl
  · rw [runsAs_of_decodes sys]
    rfl

/-- Settles O11: a halted machine only lowers its pulses, and in a running one the instruction answers a state whose
cycle is then ended. -/
theorem everyCycleCompletes : Obligations.EveryCycleCompletes := by
  intro s
  by_cases running : s.fault = 0
  · obtain ⟨u, hu⟩ := exec_next (runsAs s.wordAtPc) s.cycleStart.advancePc
    exact ⟨_, step_eq_cycleEnd running hu⟩
  · exact ⟨_, step_of_halted running⟩

end Sys2Proof.Machine

/-! Control flow: jumps, calls, returns and skips, and the whole cycles of a call and its return, of an idle jump, of a
word that does nothing, and of a raise (O12, O30, O31, O32, O33, O35, O36, O37). -/

namespace Sys2Proof.Machine

/-! ### Single meanings -/

/-- Settles O30: the 12-bit operand is the new `pc`, zero-extended. -/
theorem jumpSetsPc : Obligations.JumpSetsPc := fun _ nnn =>
  ⟨decodeWord_encode (i := .jp nnn) rfl, _, rfl, addrOperand_toNat nnn, rfl, fun _ => rfl⟩

/-- Settles O31: with room the entry at `SP` is the one that changes, and a full stack raises. -/
theorem callPushesTheReturnAddress : Obligations.CallPushesTheReturnAddress := by
  intro s nnn
  refine ⟨decodeWord_encode (i := .call nnn) rfl, fun notFull => ?_, exec_call_of_full nnn⟩
  have room : s.sp.val < 16 := by omega
  refine ⟨_, exec_call_of_room nnn room, addrOperand_toNat nnn, rfl, fun k => ?_, rfl, fun _ => rfl⟩
  simp only [Fin.getElem_fin, Vector.getElem_set, eq_comm]

/-- A stack that is not empty has a youngest entry. -/
theorem exists_youngest {s : State} (h : s.sp.val ≠ 0) : ∃ k : Fin 16, k.val + 1 = s.sp.val :=
  ⟨⟨s.sp.val - 1, by omega⟩, Nat.succ_pred_eq_of_ne_zero h⟩

/-- Settles O32: the entry popped is the one numbered `SP - 1`, and an empty stack raises. -/
theorem returnPopsIntoPc : Obligations.ReturnPopsIntoPc := by
  refine fun s => ⟨decodeWord_encode (i := .ret) rfl, fun notEmpty => ?_, exec_ret_of_empty⟩
  obtain ⟨k, live⟩ := exists_youngest notEmpty
  refine ⟨_, exec_ret_of_pos k live, live, fun j hj => ?_, rfl, fun _ => rfl⟩
  rw [show j = k by omega]

theorem skipIf_beq (s : State) (a b : Byte) : s.skipIf (a == b) = if a = b then s.setPc (s.pc + 2) else s := by
  simp only [skipIf_eq, beq_iff_eq]

theorem skipIf_bne (s : State) (a b : Byte) : s.skipIf (a != b) = if a = b then s else s.setPc (s.pc + 2) := by
  simp only [skipIf_eq, bne_iff_ne, ite_not]

/-- Settles O33: `SE` skips where the two values agree, `SNE` where they differ. -/
theorem skipsStepOverOneInstruction : Obligations.SkipsStepOverOneInstruction := fun s x y nn =>
  ⟨decodeWord_encode (i := .seImm x nn) rfl, decodeWord_encode (i := .sneImm x nn) rfl,
    decodeWord_encode (i := .seReg x y) rfl, decodeWord_encode (i := .sneReg x y) rfl,
    s.setPc (s.pc + 2), rfl, BitVec.toNat_add _ _,
    congrArg _ (skipIf_beq s _ _), congrArg _ (skipIf_bne s _ _),
    congrArg _ (skipIf_beq s _ _), congrArg _ (skipIf_bne s _ _)⟩

/-! ### Raises -/

/-- `FAULT` is kept by every instruction but `CALL` and `RET` (10_state.md R25). -/
theorem Effect.keeps_fault {s t : State} {i : Instr} (h : Effect s i t) (hi : i.usesStack = false) :
    t.fault = s.fault := by
  rcases h.fault_cases with kept | ⟨_, _, stack⟩
  · exact kept
  · cases hi.symm.trans stack

/-- An instruction raises in exactly two cases, and otherwise keeps `FAULT` (60_exceptions.md R150, R151). -/
theorem exec_raise_cases {s t : State} {i : Instr} (h : exec i s = .next t) :
    ((∃ nnn, i = .call nnn) ∧ s.sp.val = 16 ∧ t = s.raise .stackOverflow) ∨
    (i = .ret ∧ s.sp.val = 0 ∧ t = s.raise .stackUnderflow) ∨
    (¬ ((∃ nnn, i = .call nnn) ∧ s.sp.val = 16) ∧ ¬ (i = .ret ∧ s.sp.val = 0) ∧ t.fault = s.fault) := by
  cases i with
  | call nnn =>
    rcases Nat.lt_or_ge s.sp.val 16 with room | full
    · rw [exec_call_of_room nnn room] at h
      cases h
      exact .inr (.inr ⟨fun ⟨_, full⟩ => by omega, nofun, rfl⟩)
    · have full : s.sp.val = 16 := by omega
      rw [exec_call_of_full nnn full] at h
      cases h
      exact .inl ⟨⟨nnn, rfl⟩, full, rfl⟩
  | ret =>
    by_cases empty : s.sp.val = 0
    · rw [exec_ret_of_empty empty] at h
      cases h
      exact .inr (.inl ⟨rfl, empty, rfl⟩)
    · obtain ⟨k, live⟩ := exists_youngest empty
      rw [exec_ret_of_pos k live] at h
      cases h
      exact .inr (.inr ⟨nofun, fun ⟨_, e⟩ => empty e, rfl⟩)
  | _ => exact .inr (.inr ⟨nofun, nofun, (effect_of_exec h).keeps_fault rfl⟩)

theorem decodes_iff_runsAs {w : Word} {i : Instr} (hi : i ≠ .sys 0) : decodeWord w = some i ↔ runsAs w = i :=
  ⟨runsAs_of_decodes, fun h => decodes_of_runsAs h hi⟩

/-- The cycle of a raise has no end phases (60_exceptions.md R153). -/
theorem cycleEnd_raise (s : State) (e : Exception) : (s.raise e).cycleEnd = s.raise e :=
  cycleEnd_of_halted e.code_ne_zero

/-- Settles O12: the cycle ends at a raise, which changes `FAULT` alone, and in every other cycle `FAULT` stays 0. -/
theorem onlyTheTwoStackFaultsHalt : Obligations.OnlyTheTwoStackFaultsHalt := by
  intro s t running ht
  obtain ⟨u, hu, rfl⟩ := step_runs running ht
  have hcall : ∀ nnn, decodeWord s.wordAtPc = some (.call nnn) ↔ runsAs s.wordAtPc = .call nnn :=
    fun _ => decodes_iff_runsAs nofun
  have hret : decodeWord s.wordAtPc = some .ret ↔ runsAs s.wordAtPc = .ret := decodes_iff_runsAs nofun
  simp only [hcall, hret]
  rcases exec_raise_cases hu with ⟨⟨nnn, call⟩, full, rfl⟩ | ⟨ret, empty, rfl⟩ | ⟨noCall, noRet, kept⟩
  · rw [cycleEnd_raise, call]
    exact ⟨⟨fun _ => ⟨⟨nnn, rfl⟩, full⟩, fun _ => rfl⟩, ⟨nofun, nofun⟩, nofun, fun _ => rfl⟩
  · rw [cycleEnd_raise, ret]
    exact ⟨⟨nofun, nofun⟩, ⟨fun _ => ⟨rfl, empty⟩, fun _ => rfl⟩, nofun, fun _ => rfl⟩
  · rw [cycleEnd_fault, kept.trans running]
    exact ⟨⟨nofun, fun raises => absurd raises noCall⟩, ⟨nofun, fun raises => absurd raises noRet⟩, nofun,
      fun raised => absurd rfl raised⟩

/-! ### Whole cycles -/

/-- The step of a running machine whose instruction does not raise (10_state.md R32, R35, R36). -/
theorem step_completes {s u : State} (running : s.fault = 0)
    (hu : exec (runsAs s.wordAtPc) s.cycleStart.advancePc = .next u) (completed : u.fault = 0) :
    step s = .next { u with dt := countDown u.dt, st := countDown u.st, beep := decide (u.st = 1),
                            renderNotify := u.dirty, dirty := false } := by
  rw [step_eq_cycleEnd running hu, cycleEnd_fields completed]

/-- A word of no row and a `SYS` both run as a `SYS` (30_encoding.md R67). -/
theorem runsAs_sys {w : Word} (h : decodeWord w = none ∨ ∃ nnn, decodeWord w = some (.sys nnn)) :
    ∃ nnn, runsAs w = .sys nnn := by
  rcases h with noRow | ⟨nnn, sys⟩
  · exact ⟨0, runsAs_of_no_row noRow⟩
  · exact ⟨nnn, runsAs_of_decodes sys⟩

/-- Settles O35: the word runs as a `SYS`, so that the cycle is its start and its end. -/
theorem unrecognizedWordsAreNoOperations : Obligations.UnrecognizedWordsAreNoOperations := by
  refine ⟨fun _ _ => rfl, fun s running hw => ?_⟩
  obtain ⟨nnn, sys⟩ := runsAs_sys hw
  have hu : exec (runsAs s.wordAtPc) s.cycleStart.advancePc = .next s.cycleStart.advancePc := by
    rw [sys]
    rfl
  exact ⟨_, step_completes running hu running, BitVec.toNat_add _ _, countDown_toNat s.dt, countDown_toNat s.st,
    decide_eq_one_iff s.st, rfl, rfl, rfl, rfl⟩

/-- The word of an idle loop at `pc` decodes to the jump to `pc`. -/
theorem decodes_of_idle {w pc : Word} (small : pc.toNat < 4096) (hw : w.toNat = 0x1000 + pc.toNat) :
    ∃ nnn, decodeWord w = some (.jp nnn) ∧ addrOperand nnn = pc := by
  have low : (pc.setWidth 12).toNat = pc.toNat := by
    rw [BitVec.toNat_setWidth]
    exact Nat.mod_eq_of_lt small
  refine ⟨pc.setWidth 12, ?_, BitVec.eq_of_toNat_eq (by rw [addrOperand_toNat, low])⟩
  have word : w = encode (.jp (pc.setWidth 12)) := BitVec.eq_of_toNat_eq (by
    rw [encode, wordA_toNat, low, hw]
    rfl)
  rw [word, decodeWord_encode rfl]

/-- Settles O37: the jump takes `pc` back to where the cycle fetched. -/
theorem idleLoopChangesOnlyKeysAndTimers : Obligations.IdleLoopChangesOnlyKeysAndTimers := by
  intro s running clean small hw
  obtain ⟨nnn, jump, target⟩ := decodes_of_idle small hw
  have hu : exec (runsAs s.wordAtPc) s.cycleStart.advancePc = .next (s.cycleStart.advancePc.setPc s.pc) := by
    rw [runsAs_of_decodes jump, ← target]
    rfl
  refine ⟨_, step_completes running hu running, countDown_toNat s.dt, countDown_toNat s.st,
    decide_eq_one_iff s.st, ?_⟩
  simp [clean]

/-! ### A call and its return -/

/-- The general registers, `I`, memory and the pixels are as before. -/
structure State.SameData (s t : State) : Prop where
  regs : ∀ r, t.reg r = s.reg r
  index : t.i = s.i
  memory : s.SameMemory t
  pixels : ∀ p, t.pixel p = s.pixel p

theorem State.SameData.trans {s t u : State} (h : s.SameData t) (h' : t.SameData u) : s.SameData u where
  regs r := (h'.regs r).trans (h.regs r)
  index := h'.index.trans h.index
  memory a := (h'.memory a).trans (h.memory a)
  pixels p := (h'.pixels p).trans (h.pixels p)

/-- The fetched word depends on `pc` and on the bytes of memory alone. -/
theorem wordAtPc_congr {s t : State} (hpc : t.pc = s.pc) (hm : s.SameMemory t) : t.wordAtPc = s.wordAtPc := by
  rw [State.wordAtPc, State.wordAtPc, hpc, hm, hm]

/-- The cycle of a `CALL` with room on the stack (40_flow_control.md R82). -/
theorem step_of_call {s : State} {nnn : BitVec 12} (k : Fin 16) (running : s.fault = 0) (room : k.val = s.sp.val)
    (hw : decodeWord s.wordAtPc = some (.call nnn)) :
    ∃ t, step s = .next t ∧ t.fault = 0 ∧ t.pc = addrOperand nnn ∧ t.sp.val = k.val + 1 ∧
      t.stack[k] = s.pc + 2 ∧ s.SameData t := by
  have lt : s.cycleStart.advancePc.sp.val < 16 := room ▸ k.isLt
  have hu := exec_call_of_room nnn lt
  rw [← runsAs_of_decodes hw] at hu
  exact ⟨_, step_completes running hu running, running, rfl, congrArg (· + 1) room.symm, by simp [room],
    fun _ => rfl, rfl, fun _ => rfl, fun _ => rfl⟩

/-- The cycle of a `RET` with a live entry (40_flow_control.md R80). -/
theorem step_of_ret {s : State} (k : Fin 16) (running : s.fault = 0) (live : k.val + 1 = s.sp.val)
    (hw : decodeWord s.wordAtPc = some .ret) :
    ∃ t, step s = .next t ∧ t.fault = 0 ∧ t.pc = s.stack[k] ∧ t.sp.val = k.val ∧ s.SameData t := by
  have hu := exec_ret_of_pos (s := s.cycleStart.advancePc) k live
  rw [← runsAs_of_decodes hw] at hu
  exact ⟨_, step_completes running hu running, running, rfl, rfl, fun _ => rfl, rfl, fun _ => rfl, fun _ => rfl⟩

theorem core_run_two {s t u : State} (first : step s = .next t) (second : step t = .next u) :
    core.run 2 s = .next u := by
  simp only [Host.Core.run, core, first, second]

/-- Settles O36: the second cycle pops the entry the first one pushed. -/
theorem callThenReturnComesBack : Obligations.CallThenReturnComesBack := by
  intro s nnn running room call ret
  let k : Fin 16 := ⟨s.sp.val, room⟩
  obtain ⟨t, first, ht, target, pushed, entry, called⟩ := step_of_call k running rfl call
  have word : t.wordAtPc = 0x00EE := (wordAtPc_congr (s := s.setPc _) target called.memory).trans ret
  obtain ⟨u, second, hu, back, popped, returned⟩ :=
    step_of_ret k ht pushed.symm (by rw [word]; exact decodeWord_encode (i := .ret) rfl)
  have same := called.trans returned
  refine ⟨u, core_run_two first second, hu, ?_, Fin.ext popped, same.regs, same.index, same.memory,
    fun p _ => same.pixels p⟩
  rw [back, entry]
  exact BitVec.toNat_add _ _

end Sys2Proof.Machine

/-! Register loads, arithmetic and shifts (O38, O39, O41, O42). -/

namespace Sys2Proof.Machine

/-! ### Instructions without a flag -/

/-- Settles O38: each load is the write of one register. -/
theorem loadAndCopySetOneRegister : Obligations.LoadAndCopySetOneRegister := fun s x y nn =>
  ⟨decodeWord_encode (i := .ldImm x nn) rfl, decodeWord_encode (i := .ldReg x y) rfl,
    ⟨_, rfl, fun r => reg_setReg s x r nn, rfl, fun _ => rfl⟩,
    ⟨_, rfl, fun r => reg_setReg s x r (s.reg y), rfl, fun _ => rfl⟩⟩

/-- Settles O39: the sum of two bytes, under the frame of a register write. -/
theorem addImmediateWrapsWithoutAFlag : Obligations.AddImmediateWrapsWithoutAFlag := by
  intro s x nn
  obtain ⟨hx, frame⟩ := setReg_frame s x (s.reg x + nn)
  exact ⟨decodeWord_encode (i := .addImm x nn) rfl, _, rfl, by rw [hx, BitVec.toNat_add], frame⟩

/-! ### A result and its flag -/

/-- A result with its flag: the flag is in VF, the result in `Vx` unless the flag has replaced it there, and nothing
else has changed (41_register_alu.md R100). -/
theorem setResult_frame (s : State) (x : Reg) (u : Byte) (c : Bool) :
    (x ≠ 15 → (s.setResult x u c).reg x = u) ∧ (s.setResult x u c).reg 15 = flagByte c ∧
      (∀ r, r ≠ x → r ≠ 15 → (s.setResult x u c).reg r = s.reg r) ∧
      s.setResult x u c = { s with v := (s.setResult x u c).v } ∧ s.SameMemory (s.setResult x u c) :=
  ⟨fun hx => by rw [reg_setResult, if_neg hx, if_pos rfl], by rw [reg_setResult, if_pos rfl],
    fun r hx hf => by rw [reg_setResult, if_neg hf, if_neg hx], rfl, fun _ => rfl⟩

/-- The carry is the quotient of the sum by 256: two bytes have a sum below 512. -/
theorem flagByte_carry_toNat (a b : Byte) : (flagByte (carry a b)).toNat = (a.toNat + b.toNat) / 256 := by
  have := a.isLt
  have := b.isLt
  simp only [flagByte_toNat, carry, decide_eq_true_eq]
  split <;> omega

theorem flagByte_noBorrow_toNat (a b : Byte) :
    (flagByte (noBorrow a b)).toNat = if b.toNat ≤ a.toNat then 1 else 0 := by
  simp only [flagByte_toNat, noBorrow, decide_eq_true_eq]

/-- Byte subtraction, as the integer difference modulo 256. -/
theorem sub_toNat_eq_emod (a b : Byte) : ((a - b).toNat : Int) = (a.toNat - b.toNat : Int) % 256 := by
  have := b.isLt
  rw [BitVec.toNat_sub]
  omega

/-- Settles O41: each of the three writes a result and its flag; `SUBN` is `SUB` with the operands exchanged. -/
theorem addAndSubtractReportInVF : Obligations.AddAndSubtractReportInVF := by
  intro s x y
  refine ⟨⟨_, rfl, ?_⟩, ⟨_, rfl, ?_⟩, ⟨_, rfl, ?_⟩⟩
  · obtain ⟨result, flag, frame⟩ := setResult_frame s x (s.reg x + s.reg y) (carry (s.reg x) (s.reg y))
    exact ⟨fun hx => by rw [result hx, BitVec.toNat_add], by rw [flag, flagByte_carry_toNat], frame⟩
  · obtain ⟨result, flag, frame⟩ := setResult_frame s x (s.reg x - s.reg y) (noBorrow (s.reg x) (s.reg y))
    exact ⟨fun hx => by rw [result hx, sub_toNat_eq_emod], by rw [flag, flagByte_noBorrow_toNat], frame⟩
  · obtain ⟨result, flag, frame⟩ := setResult_frame s x (s.reg y - s.reg x) (noBorrow (s.reg y) (s.reg x))
    exact ⟨fun hx => by rw [result hx, sub_toNat_eq_emod], by rw [flag, flagByte_noBorrow_toNat], frame⟩

/-! ### Shifts -/

/-- A bit as a flag is a binary digit of the byte. -/
theorem flagByte_getLsbD_toNat (a : Byte) (k : Nat) : (flagByte (a.getLsbD k)).toNat = a.toNat / 2 ^ k % 2 := by
  rw [flagByte_toNat, ← Nat.toNat_testBit, BitVec.testBit_toNat, Bool.toNat, Bool.cond_eq_ite]

theorem flagByte_lowBit_toNat (a : Byte) : (flagByte (lowBit a)).toNat = a.toNat % 2 := by
  rw [lowBit, flagByte_getLsbD_toNat, Nat.pow_zero, Nat.div_one]

/-- The top digit of a byte is its quotient by 128. -/
theorem flagByte_highBit_toNat (a : Byte) : (flagByte (highBit a)).toNat = a.toNat / 128 := by
  have := a.isLt
  rw [highBit, flagByte_getLsbD_toNat]
  omega

/-- Settles O42: the meanings do not look at `y`; each writes the shifted byte and the digit shifted out. -/
theorem shiftsMoveOneBitIntoVF : Obligations.ShiftsMoveOneBitIntoVF := by
  intro s x _
  refine ⟨⟨_, rfl, ?_⟩, ⟨_, rfl, ?_⟩⟩
  · obtain ⟨result, flag, frame⟩ := setResult_frame s x (s.reg x >>> 1) (lowBit (s.reg x))
    exact ⟨fun hx => by rw [result hx, BitVec.toNat_ushiftRight, Nat.shiftRight_one],
      by rw [flag, flagByte_lowBit_toNat], frame⟩
  · obtain ⟨result, flag, frame⟩ := setResult_frame s x (s.reg x <<< 1) (highBit (s.reg x))
    exact ⟨fun hx => by rw [result hx, BitVec.toNat_shiftLeft, Nat.shiftLeft_eq, Nat.pow_one],
      by rw [flag, flagByte_highBit_toNat], frame⟩

end Sys2Proof.Machine

/-! The index register and memory: digits and register blocks stored from `I` up, and blocks loaded back (O44, O46,
O47, O48, O49). -/

namespace Sys2Proof.Machine

/-! ### One store -/

theorem readByte_writeByte_self (s : State) (a : Nat) (u : Byte) :
    (s.writeByte a u).readByte a = if s.drops a = true then s.readByte a else u := by
  rw [readByte_writeByte]
  cases s.drops a <;> simp

theorem readByte_writeByte_of_ne (s : State) {a b : Nat} (u : Byte) (h : b % 4096 ≠ a % 4096) :
    (s.writeByte a u).readByte b = s.readByte b := by
  rw [readByte_writeByte, if_neg fun e => h e.1]

/-- Offsets below 4096 from `I` stay apart where addresses wrap (20_memory.md R43). -/
theorem indexed_mod_ne (s : State) {j k : Nat} (hj : j < 4096) (hk : k < 4096) (ne : k ≠ j) :
    s.indexed k % 4096 ≠ s.indexed j % 4096 := by
  rw [State.indexed, State.indexed]
  omega

/-! ### The index register -/

/-- Settles O44: the decoder reads the word back, and the meaning is the write of `I`. -/
theorem loadIndexSetsI : Obligations.LoadIndexSetsI := fun _ nnn =>
  ⟨decodeWord_encode (i := .ldI nnn) rfl, _, rfl, addrOperand_toNat nnn, rfl, fun _ => rfl⟩

/-! ### Block copies -/

/-- Settles O47: each byte by the block store's own law, the frame by the effect of the instruction. -/
theorem blockStoreWritesV0ToVx : Obligations.BlockStoreWritesV0ToVx := by
  intro s x
  have outside := (effect_of_exec (i := .storeRegs x) (s := s) rfl).sameMemoryOutside
  refine ⟨_, rfl, fun k hk => ?_, indexPlus_toNat s _, outside, ?_⟩
  · exact readByte_storeBlock x.isLt s k (Nat.lt_succ_of_le hk)
  · exact congrArg (State.setI · _) (storeBlock_eq (x.val + 1) s)

/-- Settles O48: the registers by the block load's own law. -/
theorem blockLoadFillsV0ToVx : Obligations.BlockLoadFillsV0ToVx := by
  intro s x
  have frame := congrArg (State.setI · (s.indexPlus (x.val + 1))) (loadBlock_eq (x.val + 1) s)
  refine ⟨_, rfl, fun k => ?_, indexPlus_toNat s _, frame, fun a => ?_⟩
  · simp only [setI_reg, reg_loadBlock x.isLt, Nat.lt_succ_iff, Fin.le_def]
  · rw [setI_readByte, loadBlock_eq]
    rfl

/-- Settles O49: the load reads, at the same addresses, the bytes the store has written, and `I` advances alike. -/
theorem blockStoreThenLoadRestores : Obligations.BlockStoreThenLoadRestores := by
  intro s t x kept stored w hmem hcfg hi
  obtain ⟨t', ht, bytes, stored_index, -⟩ := blockStoreWritesV0ToVx s x
  obtain rfl : t = t' := Host.Outcome.next.inj (stored.symm.trans ht)
  obtain ⟨u, loaded, regs, loaded_index, -⟩ := blockLoadFillsV0ToVx w x
  refine ⟨u, loaded, BitVec.eq_of_toNat_eq ?_, fun k hk => ?_⟩
  · rw [loaded_index, hi, stored_index]
  · have same (a : Nat) : w.readByte a = t.readByte a := by rw [State.readByte, hmem, hcfg, State.readByte]
    have stored_byte : t.readByte (s.i.toNat + k.val) = s.reg k := by
      rw [bytes k hk, kept k.val hk, if_neg Bool.false_ne_true]
    rw [regs k, if_pos hk, hi, same, stored_byte]

/-! ### Decimal digits -/

/-- The digit of a byte that `LD B` stores at offset `k` from `I`: hundreds, tens, ones (42_index_memory.md R123). -/
def decimalDigit (u : Byte) : Nat → Byte
  | 0 => hundreds u
  | 1 => tens u
  | _ => ones u

theorem hundreds_toNat (u : Byte) : (hundreds u).toNat = u.toNat / 100 := by
  have := u.isLt
  rw [hundreds, BitVec.toNat_ofNat]
  omega

theorem tens_toNat (u : Byte) : (tens u).toNat = u.toNat / 10 % 10 := by
  rw [tens, BitVec.toNat_ofNat]
  omega

theorem ones_toNat (u : Byte) : (ones u).toNat = u.toNat % 10 := by
  rw [ones, BitVec.toNat_ofNat]
  omega

theorem decimalDigit_lt (u : Byte) (k : Nat) : (decimalDigit u k).toNat < 10 := by
  have := u.isLt
  unfold decimalDigit
  split <;> simp only [hundreds_toNat, tens_toNat, ones_toNat] <;> omega

/-- Byte `k` of the three after `LD B`: its digit, unless the store was dropped. The three addresses differ modulo
4096, so no store hides another. -/
theorem readByte_exec_ldB {s t : State} {x : Reg} (h : exec (.ldB x) s = .next t) {k : Nat} (hk : k < 3) :
    t.readByte (s.indexed k) =
      if s.drops (s.indexed k) = true then s.readByte (s.indexed k) else decimalDigit (s.reg x) k := by
  cases h
  match k with
  | 0 | 1 | 2 => simp [readByte_writeByte_of_ne, indexed_mod_ne, readByte_writeByte_self, decimalDigit]

/-- `LD B` changes `mem` alone. -/
theorem Effect.ldB_frame {s t : State} {x : Reg} (h : Effect s (.ldB x) t) : t = { s with mem := t.mem } := by
  cases h with
  | stores => rfl
  | jumps _ h | setsReg _ _ h | setsResult _ _ _ h | setsIndex _ h => cases h

/-- Settles O46: the three bytes read back as their digits, and the frame is that of a run of stores. -/
theorem decimalDigitsAreStoredAtI : Obligations.DecimalDigitsAreStoredAtI := by
  intro s x
  obtain ⟨t, ht, effect⟩ := exec_ldB_effect x s
  have stored {k : Nat} (hk : k < 3) (kept : s.drops (s.indexed k) = false) :
      (t.readByte (s.indexed k)).toNat = (decimalDigit (s.reg x) k).toNat := by
    rw [readByte_exec_ldB ht hk, kept, if_neg Bool.false_ne_true]
  have hundreds_stored (kept : s.drops s.i.toNat = false) : (t.readByte s.i.toNat).toNat = (s.reg x).toNat / 100 :=
    (stored (k := 0) (by decide) kept).trans (hundreds_toNat _)
  have tens_stored (kept : s.drops (s.i.toNat + 1) = false) :
      (t.readByte (s.i.toNat + 1)).toNat = (s.reg x).toNat / 10 % 10 :=
    (stored (k := 1) (by decide) kept).trans (tens_toNat _)
  have ones_stored (kept : s.drops (s.i.toNat + 2) = false) :
      (t.readByte (s.i.toNat + 2)).toNat = (s.reg x).toNat % 10 :=
    (stored (k := 2) (by decide) kept).trans (ones_toNat _)
  refine ⟨t, ht, fun k hk kept => ?_, fun kept0 kept1 kept2 => ?_, hundreds_stored, tens_stored,
    ones_stored, fun k hk dropped => ?_, effect.sameMemoryOutside, effect.ldB_frame⟩
  · exact stored hk kept ▸ decimalDigit_lt (s.reg x) k
  · rw [hundreds_stored kept0, tens_stored kept1, ones_stored kept2]
    omega
  · exact (readByte_exec_ldB ht hk).trans (if_pos dropped)

end Sys2Proof.Machine

/-! The display: `CLS` (O50). -/

namespace Sys2Proof.Machine

/-- Every pixel is off after `CLS`, which leaves the buffer that has none on. -/
theorem pixel_of_exec_cls {s t : State} (h : exec .cls s = .next t) (p : Nat) : t.pixel p = false := by
  cases h
  exact Pixels.get_allOff p

/-- Settles O50: the end of the cycle takes over the cleared buffer and hands on the `dirty` that `CLS` set. -/
theorem clearTurnsEveryPixelOff : Obligations.ClearTurnsEveryPixelOff := by
  intro s
  refine ⟨decodeWord_encode (i := .cls) rfl,
    ⟨_, rfl, fun p _ => pixel_of_exec_cls rfl p, rfl, rfl, fun _ => rfl⟩, fun running hw => ?_⟩
  obtain ⟨u, hu⟩ := exec_next .cls s.cycleStart.advancePc
  obtain ⟨dirty, kept⟩ := dirty_of_exec_draws hu rfl
  have completed : u.fault = 0 := kept.trans running
  exact ⟨_, step_completes running (by rw [runsAs_of_decodes hw]; exact hu) completed,
    fun p _ => pixel_of_exec_cls hu p, dirty, rfl⟩

end Sys2Proof.Machine

/-! Keypad and timers: the key skips and the timer transfers (O53, O56). -/

namespace Sys2Proof.Machine

/-! ### Key skips -/

theorem exec_skp (x : Reg) (s : State) :
    exec (.skp x) s =
      .next (if s.keys.getLsbD ((s.reg x).toNat % 16) = true then s.setPc (s.pc + 2) else s) := by
  rw [← keyOperand_eq, ← skipIf_eq]
  rfl

/-- `SKNP` skips where the key is up, so the two branches of `SKP` change places. -/
theorem exec_sknp (x : Reg) (s : State) :
    exec (.sknp x) s =
      .next (if s.keys.getLsbD ((s.reg x).toNat % 16) = true then s else s.setPc (s.pc + 2)) := by
  have skips : exec (.sknp x) s = .next (s.skipIf (!s.keys.getLsbD (s.keyOperand x))) := rfl
  simp only [skips, skipIf_eq, keyOperand_eq, Bool.not_eq_true', ← Bool.not_eq_true, ite_not]

/-- Settles O53: both skips choose between the state itself and the one with `pc` moved on. -/
theorem keySkipsTestTheSnapshot : Obligations.KeySkipsTestTheSnapshot := fun s x =>
  ⟨s.setPc (s.pc + 2), rfl, BitVec.toNat_add _ _, exec_skp x s, exec_sknp x s⟩

/-! ### Timer transfers -/

/-- Settles O56: reading the delay timer is the write of one register, setting a timer the write of that timer. -/
theorem timerTransfersCopyWholeBytes : Obligations.TimerTransfersCopyWholeBytes := fun s x =>
  ⟨decodeWord_encode (i := .ldVxDt x) rfl, decodeWord_encode (i := .ldDtVx x) rfl,
    decodeWord_encode (i := .ldStVx x) rfl,
    ⟨_, rfl, fun r => reg_setReg s x r s.dt, rfl, fun _ => rfl⟩,
    ⟨_, rfl, rfl, rfl, fun _ => rfl⟩, ⟨_, rfl, rfl, rfl, fun _ => rfl⟩⟩

end Sys2Proof.Machine

/-! The two stack faults, which are all an instruction can raise, and reset, which alone ends them (O19, O23). -/

namespace Sys2Proof.Machine

/-! ### What an instruction raises -/

/-- Settles O23: an instruction raises in one of two cases, which exclude each other, or keeps `FAULT`; and no kind of
effect reaches the parameters, the keys or the pulses. -/
theorem instructionsCompleteAndRaiseOnlyStackFaults : Obligations.InstructionsCompleteAndRaiseOnlyStackFaults := by
  intro i s
  obtain ⟨t, ht, effect⟩ := exec_effect i s
  rcases exec_raise_cases ht with ⟨⟨nnn, rfl⟩, full, rfl⟩ | ⟨rfl, empty, rfl⟩ | ⟨noCall, noRet, kept⟩
  · exact ⟨_, ht, fun _ => rfl, nofun, fun noCall => absurd ⟨⟨nnn, rfl⟩, full⟩ noCall, effect.keeps⟩
  · exact ⟨_, ht, nofun, fun _ => rfl, fun _ noRet => absurd ⟨rfl, empty⟩ noRet, effect.keeps⟩
  · exact ⟨_, ht, fun call => absurd call noCall, fun ret => absurd ret noRet, fun _ _ => kept, effect.keeps⟩

/-! ### The booted state -/

/-- The state that reset makes from the parameters, before the image is loaded (10_state.md R37). -/
def State.unloaded (cfg : Config) : State := { State.reset with cfg := cfg }

/-- An image that fits is loaded from 0x200 up (10_state.md R31). -/
theorem boot_of_fits (cfg : Config) {rom : List Byte} (fits : rom.length ≤ 3584) :
    State.boot cfg rom = some ((State.unloaded cfg).pokeBytes 0x200 rom) := if_pos fits

theorem boot_of_too_long (cfg : Config) {rom : List Byte} (long : 3584 < rom.length) : State.boot cfg rom = none :=
  if_neg (Nat.not_le_of_lt long)

/-- A booted state is the unloaded one with an image that fits. -/
theorem boot_eq_some_iff {cfg : Config} {rom : List Byte} {s : State} :
    State.boot cfg rom = some s ↔ rom.length ≤ 3584 ∧ s = (State.unloaded cfg).pokeBytes 0x200 rom := by
  rcases Nat.lt_or_ge 3584 rom.length with long | fits
  · simp [boot_of_too_long cfg long, long]
  · simp [boot_of_fits cfg fits, fits, eq_comm]

/-- Memory that nothing has written holds `FONT` at its foot (10_state.md R21). -/
theorem readByte_unloaded_font (cfg : Config) {a : Nat} (h : a < 80) :
    (State.unloaded cfg).readByte a = cfg.font[a] := by
  rw [State.readByte, Nat.mod_eq_of_lt (by omega)]
  exact dif_pos h

/-- Loading an image changes `mem` alone. -/
theorem boot_frame {cfg : Config} {rom : List Byte} {s : State} (h : State.boot cfg rom = some s) :
    s = { State.reset with mem := s.mem, cfg := cfg } := by
  obtain ⟨-, rfl⟩ := boot_eq_some_iff.mp h
  exact pokeBytes_eq rom _ _

/-- An image that fits stays clear of the font region: it neither reaches it from below nor wraps into it. -/
theorem readByte_boot_font {cfg : Config} {rom : List Byte} {s : State} (h : State.boot cfg rom = some s)
    {a : Nat} (ha : a < 80) : s.readByte a = cfg.font[a] := by
  obtain ⟨fits, rfl⟩ := boot_eq_some_iff.mp h
  obtain ⟨-, outside⟩ := readByte_pokeBytes rom (State.unloaded cfg) 0x200 a (by omega)
  rw [outside fun k hk => by omega, readByte_unloaded_font cfg ha]

/-- A booted machine starts in a legal state. -/
theorem legal_boot {cfg : Config} {rom : List Byte} {s : State} (h : State.boot cfg rom = some s) : s.Legal := by
  have font : ∀ a (ha : a < 80), s.readByte a = cfg.font[a] := fun _ => readByte_boot_font h
  have memory : Memory.wf cfg s.mem = true := by
    obtain ⟨-, rfl⟩ := boot_eq_some_iff.mp h
    exact wf_pokeBytes rom (State.unloaded cfg) 0x200 (Memory.wf_nil cfg)
  rw [boot_frame h] at font ⊢
  have index : State.reset.i.toNat < 4096 := by decide
  have code : State.reset.fault ≠ 3 := by decide
  exact ⟨index, memory, fun _ => font, rfl, code, nofun⟩

/-! ### Reset of a running or halted machine -/

/-- Reset answers the booted state whatever the state was, with the ports as they were (70_reset_and_hazards.md
R180). -/
theorem assertReset_of_boot (s : State) {cfg : Config} {rom : List Byte} {b : State}
    (h : State.boot cfg rom = some b) :
    s.assertReset cfg rom = some { b with keysIn := s.keysIn, rndIn := s.rndIn } := by
  rw [State.assertReset, h]

/-- What makes a state legal does not look at the input ports. -/
theorem State.Legal.of_ports {s : State} (h : s.Legal) (keysIn : InPort 16) (rndIn : InPort 8) :
    ({ s with keysIn := keysIn, rndIn := rndIn } : State).Legal :=
  ⟨h.index, h.memory, h.font, h.clean, h.code, h.quiet⟩

/-- A running machine's step takes one sample of the keypad port into `keys` (10_state.md R33). -/
theorem step_samples_keys {s t : State} (ht : step s = .next t) (running : s.fault = 0) :
    t.keys = s.keysSample ∧ t.keysIn = s.keysIn.advance := by
  obtain ⟨u, hu, rfl⟩ := step_runs running ht
  obtain ⟨-, hkeys, hport, -⟩ := (effect_of_exec hu).keeps
  exact ⟨(cycleEnd_keys u).trans hkeys, (cycleEnd_keysIn u).trans hport⟩

/-- Settles O19: the booted state is legal and runs, and the ports put back into it change neither. -/
theorem resetClearsAHaltedMachine : Obligations.ResetClearsAHaltedMachine := by
  intro s cfg rom fits
  obtain ⟨b, hb⟩ : ∃ b, State.boot cfg rom = some b := ⟨_, boot_of_fits cfg fits⟩
  have running : b.fault = 0 := by rw [boot_frame hb]; rfl
  have start : b.pc = 0x0200 := by rw [boot_frame hb]; rfl
  obtain ⟨u, hu⟩ := everyCycleCompletes { b with keysIn := s.keysIn, rndIn := s.rndIn }
  have samples := step_samples_keys hu running
  exact ⟨b, _, hb, assertReset_of_boot s hb, rfl, running, start, (legal_boot hb).of_ports _ _, u, hu, samples⟩

end Sys2Proof.Machine

/-! Reset with its arguments loads `FONT` and `ROM` and leaves a legal state, and the flag-writing instructions leave
VF at 0 or 1 (O18, O22, O25). -/

namespace Sys2Proof.Machine

/-! ### The memory of a booted state -/

/-- A `ROM` is refused for its length alone (70_reset_and_hazards.md R184). -/
theorem boot_eq_none_iff (cfg : Config) (rom : List Byte) : State.boot cfg rom = none ↔ 3584 < rom.length := by
  rcases Nat.lt_or_ge 3584 rom.length with long | fits
  · simp [boot_of_too_long cfg long, long]
  · simp [boot_of_fits cfg fits, fits]

/-- Above the font region, memory that nothing has written holds 0x00 (10_state.md R37). -/
theorem readByte_unloaded_above_font (cfg : Config) {a : Nat} (above : 80 ≤ a) (small : a < 4096) :
    (State.unloaded cfg).readByte a = 0 := by
  rw [State.readByte, Nat.mod_eq_of_lt small]
  exact dif_neg (Nat.not_lt_of_le above)

section Boot

variable {cfg : Config} {rom : List Byte} {s : State}

/-- The loader's own law at the image's addresses (10_state.md R31): no later byte of an image that fits wraps onto an
earlier one. -/
theorem readByte_boot_image (h : State.boot cfg rom = some s) (k : Nat) (hk : k < rom.length) :
    s.readByte (0x200 + k) = rom[k] := by
  obtain ⟨fits, rfl⟩ := boot_eq_some_iff.mp h
  obtain ⟨inside, -⟩ := readByte_pokeBytes rom (State.unloaded cfg) 0x200 (0x200 + k) (by omega)
  exact inside k hk rfl

/-- An image that fits does not wrap, so an address below or above it reads as before the load. -/
theorem readByte_boot_outside (h : State.boot cfg rom = some s) {a : Nat} (small : a < 4096)
    (clear : a < 0x200 ∨ 0x200 + rom.length ≤ a) : s.readByte a = (State.unloaded cfg).readByte a := by
  obtain ⟨fits, rfl⟩ := boot_eq_some_iff.mp h
  obtain ⟨-, outside⟩ := readByte_pokeBytes rom (State.unloaded cfg) 0x200 a (by omega)
  exact outside fun k hk => by omega

end Boot

/-- Settles O18: the image by the loader's law, the rest of memory as the unloaded state has it, and the frame of the
load. -/
theorem bootLoadsFontAndProgram : Obligations.BootLoadsFontAndProgram := by
  intro cfg rom
  refine ⟨boot_eq_none_iff cfg rom, fun s h => ⟨readByte_boot_image h, fun a ha => readByte_boot_font h ha,
    fun a above small clear => ?_, boot_frame h⟩⟩
  rw [readByte_boot_outside h small clear, readByte_unloaded_above_font cfg above small]

/-- Settles O22, by the loader's keeping of canonical memory and of the font region. -/
theorem bootIsLegal : Obligations.BootIsLegal := fun _ _ _ h => legal_boot h

/-! ### The flag as the last write -/

/-- A flag-writing instruction ends with the write of its flag, after its result, so that the flag survives when `x` is
15 (41_register_alu.md R100; 43_display.md R132). -/
theorem exec_flagWriter_eq_setFlag {s t : State} {i : Instr} (hi : i.writesFlag = true) (h : exec i s = .next t) :
    ∃ u c, t = State.setFlag u c := by
  cases i with
  | addReg | subReg | shr | subnReg | shl | drw =>
    cases h
    exact ⟨_, _, rfl⟩
  | _ => cases hi

/-- Settles O25: VF holds the flag that the instruction wrote last, a byte 0 or 1. -/
theorem flagWritersLeaveZeroOrOne : Obligations.FlagWritersLeaveZeroOrOne := by
  intro i s t hi h
  obtain ⟨u, c, rfl⟩ := exec_flagWriter_eq_setFlag hi h
  have flag : (u.setFlag c).reg 15 = flagByte c := (reg_setFlag u 15 c).trans (if_pos rfl)
  rw [flag]
  exact flagByte_eq_zero_or_one c

end Sys2Proof.Machine

/-! The decoder inverted: the word a decoded instruction came from, and the words of no row and of `SYS`; the sprite
drawn twice; and the plain reset (O2, O3, O17, O21, O52). -/

namespace Sys2Proof.Machine

/-! ### A word put together from its fields -/

section Fields

variable {w : Word} {op : BitVec 4}

theorem wordA_of_fields (hop : (fieldOp w).toNat = op.toNat) : wordA op (fieldNNN w) = w := by
  obtain rfl := BitVec.eq_of_toNat_eq hop
  exact (word_eq_wordA w).symm

theorem wordI_of_fields {nn : Byte} (hop : (fieldOp w).toNat = op.toNat) (hnn : (fieldNN w).toNat = nn.toNat) :
    wordI op (fieldX w) nn = w := by
  apply BitVec.eq_of_toNat_eq
  rw [wordI_toNat, ← hop, ← hnn, fieldOp_toNat, fieldX_val, fieldNN_toNat]
  omega

theorem wordR_of_fields {n : BitVec 4} (hop : (fieldOp w).toNat = op.toNat) (hn : (fieldN w).val = n.toNat) :
    wordR op (fieldX w) (fieldY w) n = w := by
  apply BitVec.eq_of_toNat_eq
  rw [wordR_toNat, ← hop, ← hn, fieldOp_toNat, fieldX_val, fieldY_val, fieldN_val]
  omega

end Fields

/-! ### The word of a decoded instruction -/

/-- `i` is a term with a word of its own, and that word is `w`. -/
def IsWordOf (w : Word) (i : Instr) : Prop := i.wellFormed = true ∧ encode i = w

section WordOf

variable {w : Word} {i : Instr}

/-- `SYS` is left with an address that is neither `CLS`'s nor `RET`'s, for with `op` 0 the address is the word. -/
theorem isWordOf_of_family0 (hop : (fieldOp w).toNat = 0x0) : IsWordOf w (decodeFamily0 w) := by
  have whole : wordA 0x0 (fieldNNN w) = w := wordA_of_fields hop
  unfold decodeFamily0
  split
  · exact ⟨rfl, Eq.symm ‹_›⟩
  · split
    · exact ⟨rfl, Eq.symm ‹_›⟩
    · next notCls notRet =>
      have addr_ne : ∀ k : BitVec 12, w ≠ wordA 0x0 k → fieldNNN w ≠ k := fun k hk e => hk (e ▸ whole.symm)
      refine ⟨?_, whole⟩
      rw [Instr.wellFormed, Bool.and_eq_true, bne_iff_ne, bne_iff_ne]
      exact ⟨addr_ne 0x0E0 notCls, addr_ne 0x0EE notRet⟩

theorem isWordOf_of_family8 (hop : (fieldOp w).toNat = 0x8) (h : decodeFamily8 w = some i) : IsWordOf w i := by
  unfold decodeFamily8 at h
  split at h <;> cases h
  all_goals exact ⟨rfl, wordR_of_fields hop ‹_›⟩

theorem isWordOf_of_familyE (hop : (fieldOp w).toNat = 0xE) (h : decodeFamilyE w = some i) : IsWordOf w i := by
  unfold decodeFamilyE at h
  split at h <;> cases h
  all_goals exact ⟨rfl, wordI_of_fields hop ‹_›⟩

theorem isWordOf_of_familyF (hop : (fieldOp w).toNat = 0xF) (h : decodeFamilyF w = some i) : IsWordOf w i := by
  unfold decodeFamilyF at h
  split at h <;> cases h
  all_goals exact ⟨rfl, wordI_of_fields hop ‹_›⟩

/-- The fields on which the decoder branched and those it kept as operands make up the whole word. -/
theorem isWordOf_of_decodes (h : decodeWord w = some i) : IsWordOf w i := by
  unfold decodeWord at h
  split at h
  case h_1 hop => exact Option.some.inj h ▸ isWordOf_of_family0 hop
  case h_9 hop => exact isWordOf_of_family8 hop h
  case h_15 hop => exact isWordOf_of_familyE hop h
  case h_16 hop => exact isWordOf_of_familyF hop h
  case h_6 hop | h_10 hop =>
    obtain ⟨hn, h⟩ := Option.ite_none_right_eq_some.mp h
    cases h
    exact ⟨rfl, wordR_of_fields hop (congrArg Fin.val hn)⟩
  case h_14 hop =>
    cases h
    exact ⟨rfl, wordR_of_fields hop (Nat.mod_eq_of_lt (fieldN w).isLt).symm⟩
  case h_2 hop | h_3 hop | h_11 hop | h_12 hop =>
    cases h
    exact ⟨rfl, wordA_of_fields hop⟩
  case h_4 hop | h_5 hop | h_7 hop | h_8 hop | h_13 hop =>
    cases h
    exact ⟨rfl, wordI_of_fields hop rfl⟩
  case h_17 => cases h

end WordOf

/-- Settles O2: the decoded instruction's word is put together from the fields that the decoder read. -/
theorem encodeOfDecodeIsTheWord : Obligations.EncodeOfDecodeIsTheWord := fun _ _ h => isWordOf_of_decodes h

/-! ### The words of no row, and those of `SYS` -/

theorem decodeFamily8_eq_none_iff (w : Word) :
    decodeFamily8 w = none ↔ (fieldN w).val ∈ [0x8, 0x9, 0xA, 0xB, 0xC, 0xD, 0xF] := by
  have := (fieldN w).isLt
  unfold decodeFamily8
  split
  case h_10 =>
    simp only [imp_false] at *
    simp only [List.mem_cons, List.not_mem_nil, or_false, true_iff]
    omega
  all_goals simp [*]

theorem decodeFamilyE_eq_none_iff (w : Word) : decodeFamilyE w = none ↔ (fieldNN w).toNat ∉ [0x9E, 0xA1] := by
  unfold decodeFamilyE
  split <;> simp_all

theorem decodeFamilyF_eq_none_iff (w : Word) : decodeFamilyF w = none ↔
    (fieldNN w).toNat ∉ [0x07, 0x0A, 0x15, 0x18, 0x1E, 0x29, 0x33, 0x55, 0x65] := by
  unfold decodeFamilyF
  split <;> simp_all

/-- The decoder rejects a word in five families only: by the low nibble in 5 and 9, by the selector in 8, E and F. -/
theorem decodeWord_eq_none_iff (w : Word) : decodeWord w = none ↔
    ((fieldOp w).toNat = 0x5 ∧ (fieldN w).val ≠ 0) ∨ ((fieldOp w).toNat = 0x8 ∧ decodeFamily8 w = none) ∨
    ((fieldOp w).toNat = 0x9 ∧ (fieldN w).val ≠ 0) ∨ ((fieldOp w).toNat = 0xE ∧ decodeFamilyE w = none) ∨
    ((fieldOp w).toNat = 0xF ∧ decodeFamilyF w = none) := by
  have := (fieldOp w).isLt
  unfold decodeWord
  split
  case h_17 =>
    simp only [imp_false] at *
    omega
  all_goals next hop => simp [hop]

/-- A `SYS` word has `op` 0, and in that family only `CLS` and `RET` come before `SYS` (30_encoding.md R68). -/
theorem decodes_to_sys_iff (w : Word) :
    (∃ nnn, decodeWord w = some (.sys nnn)) ↔ (fieldOp w).toNat = 0 ∧ w ≠ 0x00E0 ∧ w ≠ 0x00EE := by
  constructor
  · rintro ⟨nnn, h⟩
    refine ⟨((covers_op_iff _ w).mp (row_covers_of_decodes h)).1, ?_, ?_⟩ <;> rintro rfl <;> cases h
  · rintro ⟨hop, notCls, notRet⟩
    exact ⟨fieldNNN w, by simp only [decodeWord, decodeFamily0, hop, if_neg notCls, if_neg notRet]⟩

/-- Settles O3: the two characterizations by fields, with the fields written as quotients and remainders. -/
theorem unrecognizedWordsAreTheListedOnes : Obligations.UnrecognizedWordsAreTheListedOnes := by
  intro w
  constructor
  · rw [decodeWord_eq_none_iff, decodeFamily8_eq_none_iff, decodeFamilyE_eq_none_iff, decodeFamilyF_eq_none_iff,
      fieldOp_toNat, fieldN_val, fieldNN_toNat]
  · have family0 : w.toNat / 4096 = 0 ↔ w.toNat < 4096 := by omega
    rw [decodes_to_sys_iff, fieldOp_toNat, family0]

/-! ### The sprite drawn twice -/

theorem reg_drawSprite (s : State) (X Y n : Nat) (r : Reg) :
    (s.drawSprite X Y n).reg r = if r = 15 then flagByte (s.drawn X Y n).hit else s.reg r :=
  reg_setFlag _ r _

/-- A draw moves neither `I` nor memory, so the next draw finds the same sprite. -/
theorem covers_drawSprite (s : State) (X Y n q : Nat) : (s.drawSprite X Y n).Covers X Y n q ↔ s.Covers X Y n q :=
  Iff.rfl

/-- A row byte is 0 exactly when no column of it is set. -/
theorem ne_zero_iff_spriteBit (b : Byte) : b ≠ 0 ↔ ∃ c < 8, spriteBit b c = true := by
  constructor
  · intro ne
    by_contra unset
    refine ne (BitVec.eq_of_getLsbD_eq fun k hk => ?_)
    have column : spriteBit b (7 - k) = b.getLsbD k := congrArg b.getLsbD (by omega)
    have off : spriteBit b (7 - k) = false := Bool.eq_false_iff.mpr fun set => unset ⟨7 - k, by omega, set⟩
    exact (column.symm.trans off).trans BitVec.getLsbD_zero.symm
  · rintro ⟨c, -, set⟩ rfl
    simp [spriteBit] at set

/-- A sprite covers some pixel exactly when some row byte of it is not 0. -/
theorem exists_covers_iff (s : State) (X Y n : Nat) :
    (∃ q < 2048, s.Covers X Y n q) ↔ ∃ r < n, s.readByte (s.indexed r) ≠ 0 := by
  simp only [ne_zero_iff_spriteBit]
  constructor
  · rintro ⟨q, -, r, hr, c, hc, set, -⟩
    exact ⟨r, hr, c, hc, set⟩
  · rintro ⟨r, hr, c, hc, set⟩
    exact ⟨_, spritePixel_lt X Y r c, r, hr, c, hc, set, rfl⟩

section Draw

variable (s : State) (X Y : Nat) {n : Nat} (hn : n ≤ 16)
include hn

theorem pixel_drawSprite_ne_iff {q : Nat} (hq : q < 2048) :
    (s.drawSprite X Y n).pixel q ≠ s.pixel q ↔ s.Covers X Y n q :=
  (drawn_spec s X Y hn).1 q hq

theorem flag_drawSprite_iff :
    (s.drawSprite X Y n).reg 15 = 1 ↔ ∃ q < 2048, s.Covers X Y n q ∧ s.pixel q = true := by
  rw [reg_drawSprite, if_pos rfl, flagByte_eq_one_iff]
  exact (drawn_spec s X Y hn).2

/-- Each pixel is toggled by both draws or by neither. -/
theorem pixel_drawSprite_twice {q : Nat} (hq : q < 2048) :
    ((s.drawSprite X Y n).drawSprite X Y n).pixel q = s.pixel q := by
  have first := pixel_drawSprite_ne_iff s X Y hn hq
  have second := pixel_drawSprite_ne_iff (s.drawSprite X Y n) X Y hn hq
  rw [covers_drawSprite, ← first] at second
  by_cases toggled : (s.drawSprite X Y n).pixel q = s.pixel q
  · rwa [toggled, ne_self_iff_false, iff_false, not_not] at second
  · exact (Bool.eq_not.mpr (second.mpr toggled)).trans (Bool.eq_not.mpr (Ne.symm toggled)).symm

/-- On an empty buffer there is nothing to collide with. -/
theorem flag_drawSprite_of_empty (empty : ∀ p < 2048, s.pixel p = false) : (s.drawSprite X Y n).reg 15 = 0 := by
  have noHit : (s.drawSprite X Y n).reg 15 ≠ 1 := fun hit => by
    obtain ⟨q, hq, -, on⟩ := (flag_drawSprite_iff s X Y hn).mp hit
    exact Bool.false_ne_true ((empty q hq).symm.trans on)
  rw [reg_drawSprite, if_pos rfl] at noHit ⊢
  exact (flagByte_eq_zero_or_one _).resolve_right noHit

/-- From an empty buffer the first draw turns on exactly the covered pixels, and the second collides with each. -/
theorem flag_drawSprite_twice_of_empty (empty : ∀ p < 2048, s.pixel p = false) :
    ((s.drawSprite X Y n).drawSprite X Y n).reg 15 = 1 ↔ ∃ r < n, s.readByte (s.indexed r) ≠ 0 := by
  rw [flag_drawSprite_iff _ X Y hn, ← exists_covers_iff s X Y]
  constructor
  · rintro ⟨q, hq, covered, -⟩
    exact ⟨q, hq, covered⟩
  · rintro ⟨q, hq, covered⟩
    have lit := (pixel_drawSprite_ne_iff s X Y hn hq).mpr covered
    rw [empty q hq, Bool.ne_false_iff] at lit
    exact ⟨q, hq, covered, lit⟩

end Draw

/-- A draw whose coordinates are not in VF leaves them for an identical second draw. -/
theorem exec_drw_twice {s t u : State} {x y n : Fin 16} (hx : x ≠ 15) (hy : y ≠ 15)
    (first : exec (.drw x y n) s = .next t) (second : exec (.drw x y n) t = .next u) :
    t = s.drawSprite (s.reg x).toNat (s.reg y).toNat n.val ∧
      u = t.drawSprite (s.reg x).toNat (s.reg y).toNat n.val := by
  cases first
  cases second
  rw [reg_drawSprite, reg_drawSprite, if_neg hx, if_neg hy]
  exact ⟨rfl, rfl⟩

/-- Settles O52: both draws toggle the same pixels, and from an empty buffer the second one finds them all on. -/
theorem drawingTwiceErases : Obligations.DrawingTwiceErases := by
  intro s t u x y n hx hy first second
  obtain ⟨rfl, rfl⟩ := exec_drw_twice hx hy first second
  have rows := n.isLt.le
  refine ⟨fun p hp => pixel_drawSprite_twice s _ _ rows hp, fun empty =>
    ⟨flag_drawSprite_of_empty s _ _ rows empty, ?_, flag_drawSprite_twice_of_empty s _ _ rows empty⟩⟩
  rw [reg_drawSprite, if_pos rfl]
  exact flagByte_eq_zero_or_one _

/-! ### The plain reset -/

/-- The plain reset is the boot of an empty image with the default parameters (log entry 4). -/
theorem boot_default_nil : State.boot Config.default [] = some State.reset := boot_of_fits _ (Nat.zero_le _)

/-- Settles O17: memory as the unloaded state has it, the display and the two register files by the vector they repeat,
and the rest as the fields stand in `State.reset`. -/
theorem resetHoldsTheListedValues : Obligations.ResetHoldsTheListedValues := by
  have registers : ∀ x, State.reset.reg x = 0 := fun x => Vector.getElem_replicate x.isLt
  have entries : ∀ k : Fin 16, State.reset.stack[k] = 0 := fun k => Vector.getElem_replicate k.isLt
  have font : ∀ a (h : a < 80), State.reset.readByte a = State.reset.cfg.font[a] := fun _ => readByte_unloaded_font _
  have zeros : ∀ a, 80 ≤ a → a < 4096 → State.reset.readByte a = 0 := fun _ => readByte_unloaded_above_font _
  exact ⟨rfl, fun p _ => Pixels.get_allOff p, font, zeros, registers, rfl, rfl, entries,
    rfl, rfl, rfl, rfl, rfl, rfl, rfl, rfl, rfl, rfl⟩

/-- Settles O21, as the case of `legal_boot` with the empty image and the default parameters. -/
theorem resetIsLegal : Obligations.ResetIsLegal := legal_boot boot_default_nil

end Sys2Proof.Machine
